-- ==== Sys2Proof/Word.lean ====
section
/-! DEFINITION. The word types of the block (spec/00_scope.md R11): every value is unsigned. -/

namespace Sys2Proof

/-- `u8` of R11. -/
abbrev Byte := BitVec 8

/-- A nibble, `u4` of R24. -/
abbrev Nibble := BitVec 4

/-- `u32` of R11: counters, timestamps and baud rates. -/
abbrev Word := BitVec 32

end Sys2Proof
end

