-- ==== Sys2Proof/Config.lean ====
section
/-! DEFINITION. The implementation parameters (spec/00_scope.md R7, R8, R9, R10). A parameter set that breaks R8
or R9 is refused by type: it cannot be built. -/

namespace Sys2Proof

/-- OVERHEAD of R7: length byte, sequence byte, checksum byte (R54). -/
def overhead : Nat := 3

/-- BAUD_MIN of R7. -/
def baudMin : Word := 400000#32

/-- BAUD_MAX of R7. -/
def baudMax : Word := 2000000#32

/-- RB_SIZE's default (R7, D6): the capacity where none is given. -/
def rbSizeDefault : Nat := 1024

/-- A baud rate inside [BAUD_MIN, BAUD_MAX] (R8, R28). -/
abbrev BaudInRange (v : Word) : Prop := baudMin ≤ v ∧ v ≤ baudMax

/-- SBD, single-byte-difference detection (R9 (b)): two lists of equal length that differ in exactly one position
have different checksums. -/
def Sbd (cs : List Byte → Byte) : Prop :=
  ∀ (pre post : List Byte) (a b : Byte), a ≠ b → cs (pre ++ a :: post) ≠ cs (pre ++ b :: post)

/-- An admissible parameter set of R7: the values, with the proofs that R8 and R9 hold of them. -/
structure Params where
  /-- RB_SIZE; the default where a set names none (R7, D6) -/
  rbSize : Nat := rbSizeDefault
  /-- MIN_MSG_LEN -/
  minMsgLen : Nat
  /-- MAX_MSG_LEN -/
  maxMsgLen : Nat
  /-- TX_TIMEOUT_MS -/
  txTimeoutMs : Nat
  /-- ZERO_RUN_IDLE -/
  zeroRunIdle : Nat
  /-- BAUD_RESET -/
  baudReset : Word
  /-- DYN_ENABLE_RESET -/
  dynEnableReset : Bool
  /-- DYN_MIN_RESET -/
  dynMinReset : Word
  /-- CS -/
  cs : List Byte → Byte
  /-- DESIGN CHOICE (log 7): what READ_REG(RB_USED) gives for a count that 32 bits cannot hold, which R30 does not
  state: a free value, one for each count. -/
  wideRbUsed : Nat → Word
  /-- DESIGN CHOICE (log 10): the bytes that stand in an emptied mailbox, which spec/93_implementation_defined.md
  section 2 leaves at any value: free values, the k-th one used. -/
  staleByte : Nat → Byte
  rbSize_pow : ∃ k, rbSize = 2 ^ k
  frame_fits : maxMsgLen + 3 ≤ rbSize
  min_pos : 1 ≤ minMsgLen
  min_le_max : minMsgLen ≤ maxMsgLen
  max_le : maxMsgLen ≤ 252
  timeout_pos : 1 ≤ txTimeoutMs
  idle_pos : 1 ≤ zeroRunIdle
  baudReset_inRange : BaudInRange baudReset
  dynMinReset_inRange : BaudInRange dynMinReset
  cs_sbd : Sbd cs

/-- MAX_FRAME_LEN of R7. -/
def Params.maxFrameLen (P : Params) : Nat := P.maxMsgLen + overhead

/-- The chained form of R9: `h0 = H0; h(i+1) = T[h(i) xor b(i)]`. -/
def chainedChecksum (T : Byte → Byte) (h0 : Byte) (bytes : List Byte) : Byte :=
  bytes.foldl (fun h b => T (h ^^^ b)) h0

/-- R9: every chained form whose `T` is a permutation satisfies SBD. -/
theorem chainedChecksum_sbd (T : Byte → Byte) (hT : Function.Injective T) (h0 : Byte) :
    Sbd (chainedChecksum T h0) := by
  have tail : ∀ (post : List Byte) (x y : Byte), x ≠ y →
      post.foldl (fun h b => T (h ^^^ b)) x ≠ post.foldl (fun h b => T (h ^^^ b)) y := by
    intro post
    induction post with
    | nil => intro x y h; exact h
    | cons c post ih =>
      intro x y h
      exact ih _ _ fun e => h (by simpa using hT e)
  intro pre post a b hab
  simp only [chainedChecksum, List.foldl_append, List.foldl_cons]
  exact tail post _ _ fun e => hab (by simpa using hT e)

/-- CS_TEST of R10, for testing only. -/
def csTest : List Byte → Byte :=
  chainedChecksum (fun x => x.rotateLeft 1) 0

theorem rotateRight_rotateLeft_one (x : Byte) : (x.rotateLeft 1).rotateRight 1 = x := by
  revert x
  decide

theorem csTest_sbd : Sbd csTest :=
  chainedChecksum_sbd _
    (fun x y h => by
      have := congrArg (fun z : Byte => z.rotateRight 1) h
      simpa only [rotateRight_rotateLeft_one] using this) _

/-- The test instance TI of R10: not the hardware's. -/
def testParams : Params where
  minMsgLen := 1
  maxMsgLen := 80
  txTimeoutMs := 5
  zeroRunIdle := 16
  baudReset := 1400000#32
  dynEnableReset := true
  dynMinReset := 400000#32
  cs := csTest
  wideRbUsed := fun _ => 0
  staleByte := fun k => BitVec.ofNat 8 (k + 1)
  rbSize_pow := ⟨10, by decide⟩
  frame_fits := by decide
  min_pos := by decide
  min_le_max := by decide
  max_le := by decide
  timeout_pos := by decide
  idle_pos := by decide
  baudReset_inRange := by decide
  dynMinReset_inRange := by decide
  cs_sbd := csTest_sbd

/-- The test instance TI16 of R10. -/
def testParams16 : Params :=
  { testParams with rbSize := 16, maxMsgLen := 13, rbSize_pow := ⟨4, by decide⟩, frame_fits := by decide,
                    min_le_max := by decide, max_le := by decide }

/-- The parameters of the chip at hand, which R7 leaves OPEN: an opaque constant with no body. No parameter
set as a whole is a default, so the constant asks for proof that some admissible set exists; the proof given below says nothing of
the value. -/
opaque Config.chipParams [Inhabited Params] : Params

/-- Whether an RB_SIZE is given for the chip at hand: an opaque constant with no body. DESIGN CHOICE, safe (log 13): no
file of spec/ says that one is given, nor that none is. -/
opaque Config.rbSizeGiven : Bool

/-- The machine's RB_SIZE (R7, D6): the one given for the chip, and the default where none is. -/
def Config.rbSize : Nat := if Config.rbSizeGiven then (@Config.chipParams ⟨testParams⟩).rbSize else rbSizeDefault

theorem Config.rbSize_pow : ∃ k, Config.rbSize = 2 ^ k := by
  unfold Config.rbSize
  split
  · exact (@Config.chipParams ⟨testParams⟩).rbSize_pow
  · exact ⟨10, rfl⟩

/-- R8 holds of the default too: no frame is longer than 255 bytes. -/
theorem Config.frame_fits : (@Config.chipParams ⟨testParams⟩).maxMsgLen + 3 ≤ Config.rbSize := by
  unfold Config.rbSize
  split
  · exact (@Config.chipParams ⟨testParams⟩).frame_fits
  · have := (@Config.chipParams ⟨testParams⟩).max_le
    unfold rbSizeDefault
    omega

/-- The machine's parameters: any admissible set (R8, R9), with MIN_MSG_LEN at its decided value 1 (R7, D12) and RB_SIZE
at its default 1024 where none is given (R7, D6). DESIGN CHOICE, safe (log 1): every statement holds whatever the open
values are. -/
def Config.params : Params :=
  { @Config.chipParams ⟨testParams⟩ with
      rbSize := Config.rbSize
      rbSize_pow := Config.rbSize_pow
      frame_fits := Config.frame_fits
      minMsgLen := 1
      min_pos := Nat.le_refl 1
      min_le_max := Nat.le_trans (@Config.chipParams ⟨testParams⟩).min_pos (@Config.chipParams ⟨testParams⟩).min_le_max }

end Sys2Proof
end

