-- ==== Sys2Proof/Syntax.lean ====
section
/-! DEFINITION. The instructions: the ten commands and the INVALID range of spec/30_encoding.md R61 and R63, and the
four wire classes of R54 to R57; one constructor for each row of spec/opcode_table.json. -/

namespace Sys2Proof

/-- One operation of the block, or one unit of the wire at a frame-start position. -/
inductive Instr where
  /-- RESET, opcode 0x01 (R105) -/
  | reset
  /-- TICK(now), opcode 0x02 (R102) -/
  | tick (now : Word)
  /-- RX_BYTE(b), opcode 0x03 (R72) -/
  | rxByte (b : Byte)
  /-- TX_BYTE(), opcode 0x04 (R88) -/
  | txByte
  /-- SUBMIT(p), opcode 0x05 (R85); the operand n is the length of p -/
  | submit (p : List Byte)
  /-- DRAIN(), opcode 0x06 (R104) -/
  | drain
  /-- READ_REG(r), opcode 0x07 (R101) -/
  | readReg (r : Byte)
  /-- SET_BAUD(v), opcode 0x08 (R92) -/
  | setBaud (v : Word)
  /-- SET_DYN_CONFIG(en, min), opcode 0x09 (R93) -/
  | setDynConfig (en : Byte) (min : Word)
  /-- PROPOSE_BAUD(v), opcode 0x0A (R94) -/
  | proposeBaud (v : Word)
  /-- an unassigned opcode, 0x00 or 0x0B to 0xFF (R63) -/
  | invalid (op : Byte)
  /-- an idle byte 0x00 at the frame-start position (R56) -/
  | wIdle
  /-- an ACK frame on the wire: LEN = 3, OWN and ACKN nibbles, CHK as it stands (R55) -/
  | wAck (own ackn : Nibble) (chk : Byte)
  /-- a data frame on the wire: OWN and ACKN nibbles, payload, CHK as it stands; LEN is the payload's length + 3 (R54) -/
  | wData (own ackn : Nibble) (p : List Byte) (chk : Byte)
  /-- a byte of class BADLEN at the frame-start position (R57, R59) -/
  | wBadlen (len : Byte)
  deriving DecidableEq, Repr

/-- Whether the instruction is one of the four wire classes (not an operation of the host or line port). -/
def Instr.isWire : Instr → Bool
  | .reset | .tick _ | .rxByte _ | .txByte | .submit _ | .drain | .readReg _ | .setBaud _ | .setDynConfig _ _
  | .proposeBaud _ | .invalid _ => false
  | .wIdle | .wAck _ _ _ | .wData _ _ _ _ | .wBadlen _ => true

end Sys2Proof
end

