-- ==== Sys2Proof/WellFormed.lean ====
section
/-! DEFINITION. Which instructions the encodings of spec/30_encoding.md can carry. -/

namespace Sys2Proof

/-- Well-formed under the parameters `P`: SUBMIT's payload length fits its operand `n`, 0 to 255 (R61); an INVALID
opcode is unassigned (R63); a wire data frame's payload has MIN_MSG_LEN to MAX_MSG_LEN bytes (R54); a BADLEN byte is in
none of the other classes of R57. Every other operand is well-formed at every value of its width. -/
def Instr.wf (P : Params) : Instr → Bool
  | .reset | .tick _ | .rxByte _ | .txByte | .drain | .readReg _ | .setBaud _ | .setDynConfig _ _ | .proposeBaud _
  | .wIdle | .wAck _ _ _ => true
  | .submit p => p.length ≤ 255
  | .invalid op => op = 0x00#8 || 0x0B#8 ≤ op
  | .wData _ _ p _ => P.minMsgLen ≤ p.length && p.length ≤ P.maxMsgLen
  | .wBadlen len =>
    len ≠ 0#8 && len ≠ 3#8 && !(overhead + P.minMsgLen ≤ len.toNat && len.toNat ≤ P.maxFrameLen)

end Sys2Proof
end

