-- ==== Sys2Proof/Decode.lean ====
section
/-! DEFINITION. Both encodings of spec/30_encoding.md: the command encoding (R61, R63, R106) and the wire encoding
(R54 to R60), each with its decoder, then the encoder of both, and the pseudo-instructions of R64. -/

namespace Sys2Proof

/-- Why a decoder gives no instruction. -/
inductive DecodeError where
  /-- there is no byte to decode: nothing has arrived -/
  | empty
  /-- the bytes end inside the operands of the named row of spec/opcode_table.json (R106) -/
  | truncated (mnemonic : String)
  deriving DecidableEq, Repr

/-! ## Bytes and fields -/

/-- A `u32` as four bytes, least significant first (R43). -/
def wordBytes (w : Word) : List Byte :=
  [w.extractLsb' 0 8, w.extractLsb' 8 8, w.extractLsb' 16 8, w.extractLsb' 24 8]

/-- The `u32` of four bytes, least significant first (R43). -/
def wordOfBytes (b0 b1 b2 b3 : Byte) : Word := b3 ++ b2 ++ b1 ++ b0

/-- The sequence byte: `(own << 4) | ackn` (R58). -/
def seqByte (own ackn : Nibble) : Byte := own ++ ackn

/-- OWN, bits 7:4 of the sequence byte (R58). -/
def seqOwn (b : Byte) : Nibble := b.extractLsb' 4 4

/-- ACKN, bits 3:0 of the sequence byte (R58). -/
def seqAckn (b : Byte) : Nibble := b.extractLsb' 0 4

/-- The classes of R57. -/
inductive LenClass where
  | idle | badlen | ack | data
  deriving DecidableEq, Repr

/-- `len_class(L)` of R57. -/
def lenClass (P : Params) (len : Byte) : LenClass :=
  if len = 0#8 then .idle
  else if len.toNat < overhead then .badlen
  else if len.toNat = overhead then .ack
  else if len.toNat < overhead + P.minMsgLen then .badlen
  else if len.toNat ≤ P.maxFrameLen then .data
  else .badlen

/-! ## The command decoder -/

/-- The next `u32` operand of the command named `mnemonic`, and the bytes after it. -/
def takeWord (mnemonic : String) : List Byte → Except DecodeError (Word × List Byte)
  | b0 :: b1 :: b2 :: b3 :: rest => .ok (wordOfBytes b0 b1 b2 b3, rest)
  | _ => .error (.truncated mnemonic)

/-- The next `u8` operand of the command named `mnemonic`, and the bytes after it. -/
def takeByte (mnemonic : String) : List Byte → Except DecodeError (Byte × List Byte)
  | b :: rest => .ok (b, rest)
  | [] => .error (.truncated mnemonic)

/-- The operands of SUBMIT: `n`, then `n` payload bytes, for any `n` (R61). -/
def takePayload : List Byte → Except DecodeError (List Byte × List Byte)
  | n :: rest =>
    if n.toNat ≤ rest.length then .ok (rest.take n.toNat, rest.drop n.toNat) else .error (.truncated "SUBMIT")
  | [] => .error (.truncated "SUBMIT")

/-- The command at the head of a stream and the rest of the stream (R61, R63, R106). Every opcode is decoded; what is
rejected is a stream that ends inside a command's operands. -/
def decodeCommand : List Byte → Except DecodeError (Instr × List Byte)
  | [] => .error .empty
  | op :: rest =>
    match op.toNat with
    | 0x01 => .ok (.reset, rest)
    | 0x02 => (takeWord "TICK" rest).map fun (now, r) => (.tick now, r)
    | 0x03 => (takeByte "RX_BYTE" rest).map fun (b, r) => (.rxByte b, r)
    | 0x04 => .ok (.txByte, rest)
    | 0x05 => (takePayload rest).map fun (p, r) => (.submit p, r)
    | 0x06 => .ok (.drain, rest)
    | 0x07 => (takeByte "READ_REG" rest).map fun (n, r) => (.readReg n, r)
    | 0x08 => (takeWord "SET_BAUD" rest).map fun (v, r) => (.setBaud v, r)
    | 0x09 => do
      let (en, r) ← takeByte "SET_DYN_CONFIG" rest
      let (min, r) ← takeWord "SET_DYN_CONFIG" r
      .ok (.setDynConfig en min, r)
    | 0x0A => (takeWord "PROPOSE_BAUD" rest).map fun (v, r) => (.proposeBaud v, r)
    | _ => .ok (.invalid op, rest)

/-! ## The wire decoder -/

/-- The wire unit at a frame-start position and the bytes after it: the length comes from byte 0 alone (R57, R60). The
checksum byte is read as it stands, right or wrong. -/
def decodeWire (P : Params) : List Byte → Except DecodeError (Instr × List Byte)
  | [] => .error .empty
  | len :: rest =>
    match lenClass P len with
    | .idle => .ok (.wIdle, rest)
    | .badlen => .ok (.wBadlen len, rest)
    | .ack =>
      match rest with
      | sq :: chk :: r => .ok (.wAck (seqOwn sq) (seqAckn sq) chk, r)
      | _ => .error (.truncated "W_ACK")
    | .data =>
      match rest with
      | sq :: r =>
        match r.drop (len.toNat - overhead) with
        | chk :: r' => .ok (.wData (seqOwn sq) (seqAckn sq) (r.take (len.toNat - overhead)) chk, r')
        | [] => .error (.truncated "W_DATA")
      | [] => .error (.truncated "W_DATA")

/-! ## Table words -/

/-- How many bytes the longest command has: SUBMIT with 255 payload bytes. -/
def longestCommand : Nat := 257

/-- The bytes of a table word: byte `j` is bits `8j+7..8j` of `w`; the bytes after the row's own are zero, up to the
longest command. -/
def tableBytes (nbits w : Nat) : List Byte :=
  (List.range ((nbits + 7) / 8)).map (fun j => BitVec.ofNat 8 (w / 2 ^ (8 * j)))
    ++ List.replicate (longestCommand - (nbits + 7) / 8) 0#8

/-- The instruction the command decoder reads from a table word. DESIGN CHOICE (log 5): a wire row's length byte is
also some command's opcode, and the machine fetches commands, so the word is read as a command. -/
def decodeTableWord (nbits w : Nat) : Option Instr :=
  match decodeCommand (tableBytes nbits w) with
  | .ok (i, _) => some i
  | .error _ => none

/-! ## The encoder -/

/-- The bytes of an instruction: a command as R61 and R63 write it, a wire unit as R54 to R57 do. -/
def encode : Instr → List Byte
  | .reset => [0x01#8]
  | .tick now => 0x02#8 :: wordBytes now
  | .rxByte b => [0x03#8, b]
  | .txByte => [0x04#8]
  | .submit p => 0x05#8 :: BitVec.ofNat 8 p.length :: p
  | .drain => [0x06#8]
  | .readReg r => [0x07#8, r]
  | .setBaud v => 0x08#8 :: wordBytes v
  | .setDynConfig en min => 0x09#8 :: en :: wordBytes min
  | .proposeBaud v => 0x0A#8 :: wordBytes v
  | .invalid op => [op]
  | .wIdle => [0x00#8]
  | .wAck own ackn chk => [0x03#8, seqByte own ackn, chk]
  | .wData own ackn p chk => BitVec.ofNat 8 (p.length + overhead) :: seqByte own ackn :: (p ++ [chk])
  | .wBadlen len => [len]

/-! ## Pseudo-instructions (R64) -/

/-- `rx [b0, ..., bk]` of R64. -/
def asmRx (bytes : List Byte) : List Instr := bytes.map .rxByte

/-- `rx DATA(s, a, [p...])` of R64: the strobes of the data frame of R54, its checksum computed with CS. -/
def asmRxData (P : Params) (s a : Nibble) (p : List Byte) : List Instr :=
  asmRx (encode (.wData s a p (P.cs (BitVec.ofNat 8 (p.length + overhead) :: seqByte s a :: p))))

/-- `rx ACK(a)` of R64. -/
def asmRxAck (P : Params) (a : Nibble) : List Instr :=
  asmRx (encode (.wAck 0#4 a (P.cs [0x03#8, seqByte 0#4 a])))

/-- `tx*N` of R64. -/
def asmTx (n : Nat) : List Instr := List.replicate n .txByte

end Sys2Proof
end

