-- ==== Sys2Proof/Machine/State.lean ====
section
/-! DEFINITION. The state of the block (spec/10_state.md), as plain data, its reset values (R35), and the reasons a step
can stop. -/

namespace Sys2Proof.Machine

/-- The contents of one storage area (R38): (offset, byte) pairs, offsets strictly rising, no entry for an offset that
holds the byte an unlisted offset reads as. -/
abbrev Memory := List Host.Cell

/-- The receive states of R18. -/
inductive RxState where
  /-- SEEKING_FRAME_START, code 0 -/
  | seeking
  /-- ACCUMULATING, code 1 -/
  | accumulating
  /-- FRAME_COMPLETE, code 2 -/
  | frameComplete
  deriving DecidableEq, Repr

/-- `tx_src` of R22: the frame now being transmitted. -/
inductive TxSrc where
  /-- IDLE, code 0: none -/
  | idle
  /-- DATA, code 1 -/
  | data
  /-- ACK, code 2 -/
  | ack
  deriving DecidableEq, Repr

/-- The storage areas of R38. -/
inductive Area where
  | rb | scratch | sendBuf | ackBuf | slotTx | slotRx
  deriving DecidableEq, Repr

/-- The error events of R109, in the order of their codes 1 to 9. -/
inductive Event where
  | frameErrorBadlen | frameErrorSeq0 | checksumErrorAck | checksumErrorData | overflowError
  | busyError | submitLengthError | invalidCommand | proposalIgnored
  deriving DecidableEq, Repr

/-- Why the machine faults. The block itself has no faults (R108); this one is the model's. -/
inductive Fault where
  /-- A byte outside a storage area was asked for, at an offset R38 gives the area no place for. Raised by the area
  accesses of Machine/Ops.lean, only in states that R36 rules out. Safe (log 9): the model stops where no machine is. -/
  | outOfRange (area : Area) (offset : Nat)
  deriving DecidableEq, Repr

/-- Why a step is refused: the cases of spec/93_implementation_defined.md section 4. -/
inductive Refusal where
  /-- The instruction has no meaning yet. No arm of `exec` answers with it. Safe. -/
  | notModelled (mnemonic : String)
  /-- The command stream ends inside the operands of the named command (R106: a model refuses it). Raised by `step`.
  Safe: the spec gives such a stream no meaning. -/
  | truncatedCommand (mnemonic : String)
  /-- `rb_peek(i)` with `i ≥ rb_used` (R39: a model refuses it), or a run of such peeks. Raised by the scanner, only in
  states R36 rules out. Safe. -/
  | peekPastUsed
  /-- `rb_drop(n)` with `n > rb_used`, outside R40's own bound. Raised by the scanner, only in states R36 rules out.
  Safe. -/
  | dropPastUsed
  /-- ENCODE_DATA with operands out of range (R66: a model refuses them). Raised by FRAME_FROM_SLOT, only in states R36
  rules out. Safe. -/
  | encodeOperands
  deriving DecidableEq, Repr

/-- The block's whole state (R16 to R28), then four fields of the model's own (log 3, log 10). -/
structure State where
  /-- R17: the receive ring buffer's bytes -/
  rb : Memory
  /-- R17: index of the oldest unread byte -/
  rbHead : Nat
  /-- R17: number of unread bytes -/
  rbUsed : Nat
  /-- R18 -/
  rxState : RxState
  /-- R18: length byte of the candidate frame -/
  rxLen : Byte
  /-- R19 -/
  scratch : Memory
  /-- R20 -/
  sendBuf : Memory
  /-- R20: 0 means empty -/
  sendLen : Byte
  /-- R21 -/
  ackBuf : Memory
  /-- R22 -/
  txSrc : TxSrc
  /-- R22 -/
  txIdx : Byte
  /-- R22 -/
  txSent : Bool
  /-- R22 -/
  txDue : Bool
  /-- R22 -/
  txRel : Bool
  /-- R23: "message from brick" -/
  slotTx : Memory
  /-- R23 -/
  slotTxLen : Byte
  /-- R23: "message from bricklet" -/
  slotRx : Memory
  /-- R23 -/
  slotRxLen : Byte
  /-- R24 -/
  seqCur : Nibble
  /-- R24 -/
  seqLastSeen : Nibble
  /-- R24 -/
  ackOwed : Bool
  /-- R25 -/
  nowReg : Word
  /-- R25 -/
  lastSend : Word
  /-- R26 -/
  zeroRun : Word
  /-- R27 -/
  errAckChecksum : Word
  /-- R27 -/
  errFrame : Word
  /-- R27 -/
  errMsgChecksum : Word
  /-- R27 -/
  errOverflow : Word
  /-- R27 -/
  msgFromBrick : Word
  /-- R27 -/
  msgFromBricklet : Word
  /-- R28 -/
  baudCfg : Word
  /-- R28: the rate in effect on the line -/
  baudCurrent : Word
  /-- R28: the pending rate -/
  baudNew : Word
  /-- R28 -/
  baudChange : Bool
  /-- R28 -/
  dynEnable : Bool
  /-- R28 -/
  dynMin : Word
  /-- The model's own (log 3): the command stream not executed yet (R106) -/
  cmdIn : List Byte
  /-- The model's own (log 3): the response bytes emitted so far, oldest first (R61, R106) -/
  out : List Byte
  /-- The model's own (log 3): the error events signalled so far, oldest first (R109, R111) -/
  events : List Event
  /-- The model's own (log 10): how many free values of `staleByte` have been used -/
  staleUsed : Nat
  deriving DecidableEq, Repr

/-- The reset state of R35 under the parameters `P`. The areas' contents are unspecified there: DESIGN CHOICE, every
byte reads 0 (log 2). -/
def State.resetWith (P : Params) : State where
  rb := []
  rbHead := 0
  rbUsed := 0
  rxState := .seeking
  rxLen := 0
  scratch := []
  sendBuf := []
  sendLen := 0
  ackBuf := []
  txSrc := .idle
  txIdx := 0
  txSent := false
  txDue := false
  txRel := false
  slotTx := []
  slotTxLen := 0
  slotRx := []
  slotRxLen := 0
  seqCur := 1
  seqLastSeen := 0
  ackOwed := false
  nowReg := 0
  lastSend := 0
  zeroRun := 0
  errAckChecksum := 0
  errFrame := 0
  errMsgChecksum := 0
  errOverflow := 0
  msgFromBrick := 0
  msgFromBricklet := 0
  baudCfg := P.baudReset
  baudCurrent := P.baudReset
  baudNew := P.baudReset
  baudChange := false
  dynEnable := P.dynEnableReset
  dynMin := P.dynMinReset
  cmdIn := []
  out := []
  events := []
  staleUsed := 0

/-- The machine right after reset and at power-up (R35, R123). -/
def State.reset : State := State.resetWith Config.params

end Sys2Proof.Machine
end

