-- ==== Sys2Proof/Machine/Ops.lean ====
section
/-! DEFINITION. The operations every meaning is written over: runs that may stop, the storage areas (R38), the ring
buffer (R39 to R41), responses (R61, R106), error events (R109) and the saturating increment (R97).

The block has no trap, no exception entry and no return (R108, R113, R114), so there is none here: what takes an
exception's place is `signal`, which names an error event, while the counter or status of R109 is written by the rule
that signals it. -/

namespace Sys2Proof.Machine

/-! ## Runs that may stop -/

/-- Why a run stops. -/
inductive Stop where
  | fault (f : Fault)
  | refusal (r : Refusal)
  deriving DecidableEq, Repr

/-- A computation that gives a value or stops. -/
abbrev Run (α : Type) := Except Stop α

/-- A run that ends in a state, as an outcome of a step. -/
def runOutcome : Run State → Host.Outcome State Fault Refusal
  | .ok s => .next s
  | .error (.fault f) => .fault f
  | .error (.refusal r) => .refused r

/-! ## Storage areas -/

/-- The byte an offset reads as when no entry lists it. R35 leaves the contents of the areas after reset unspecified:
DESIGN CHOICE 0 (log 2). -/
def unlistedByte : Byte := 0#8

/-- The canonical form: offsets strictly rising, no entry equal to what an unlisted offset reads as. -/
abbrev Memory.wf (m : Memory) : Prop := m.Pairwise (fun a b => a.1 < b.1) ∧ ∀ c ∈ m, c.2 ≠ unlistedByte

/-- The byte at offset `k`. -/
def memRead : Memory → Nat → Byte
  | [], _ => unlistedByte
  | (a, b) :: m, k => if a = k then b else memRead m k

/-- The memory with byte `b` at offset `k`, in canonical form again. -/
def memWrite : Memory → Nat → Byte → Memory
  | [], k, b => if b = unlistedByte then [] else [(k, b)]
  | (a, c) :: m, k, b =>
    if k < a then (if b = unlistedByte then (a, c) :: m else (k, b) :: (a, c) :: m)
    else if k = a then (if b = unlistedByte then m else (k, b) :: m)
    else (a, c) :: memWrite m k b

/-- The `n` bytes from offset `k` on. -/
def memReadBytes (m : Memory) (k n : Nat) : List Byte := (List.range n).map fun i => memRead m (k + i)

/-- The memory with the bytes of the list at the offsets from `k` on. -/
def memWriteBytes (m : Memory) (k : Nat) : List Byte → Memory
  | [] => m
  | b :: bs => memWriteBytes (memWrite m k b) (k + 1) bs

/-- The size of an area in bytes (R17, R19, R20, R21, R23, R38). -/
def areaSize (P : Params) : Area → Nat
  | .rb => P.rbSize
  | .scratch | .sendBuf => P.maxFrameLen
  | .ackBuf => 3
  | .slotTx | .slotRx => P.maxMsgLen

/-- The contents of an area. -/
def areaMem (s : State) : Area → Memory
  | .rb => s.rb
  | .scratch => s.scratch
  | .sendBuf => s.sendBuf
  | .ackBuf => s.ackBuf
  | .slotTx => s.slotTx
  | .slotRx => s.slotRx

/-- The state with the contents of one area replaced. -/
def setAreaMem (s : State) (m : Memory) : Area → State
  | .rb => { s with rb := m }
  | .scratch => { s with scratch := m }
  | .sendBuf => { s with sendBuf := m }
  | .ackBuf => { s with ackBuf := m }
  | .slotTx => { s with slotTx := m }
  | .slotRx => { s with slotRx := m }

/-- One byte of an area. An offset the area does not have faults (log 9). -/
def loadAt (P : Params) (a : Area) (i : Nat) (s : State) : Run Byte :=
  if i < areaSize P a then .ok (memRead (areaMem s a) i) else .error (.fault (.outOfRange a i))

/-- The first `n` bytes of an area: `x[0 .. n-1]` in the spec's notation (R11). -/
def load (P : Params) (a : Area) (n : Nat) (s : State) : Run (List Byte) :=
  if n ≤ areaSize P a then .ok (memReadBytes (areaMem s a) 0 n) else .error (.fault (.outOfRange a (n - 1)))

/-- The bytes of a list stored in an area from offset `k` on. -/
def store (P : Params) (a : Area) (k : Nat) (bytes : List Byte) (s : State) : Run State :=
  if k + bytes.length ≤ areaSize P a then .ok (setAreaMem s (memWriteBytes (areaMem s a) k bytes) a)
  else .error (.fault (.outOfRange a (k + bytes.length - 1)))

/-! ## Responses, events, counters -/

/-- Emits response bytes on the port the operation came from (R61, R106). -/
def respond (bytes : List Byte) (s : State) : State := { s with out := s.out ++ bytes }

/-- `signal <Event>` of R12. It writes no field the spec gives; the model records the event's name (log 3). -/
def signal (e : Event) (s : State) : State := { s with events := s.events ++ [e] }

/-- The event codes of R109. -/
def eventCode : Event → Nat
  | .frameErrorBadlen => 1
  | .frameErrorSeq0 => 2
  | .checksumErrorAck => 3
  | .checksumErrorData => 4
  | .overflowError => 5
  | .busyError => 6
  | .submitLengthError => 7
  | .invalidCommand => 8
  | .proposalIgnored => 9

/-- `sat_inc(c)` of R97. -/
def satInc (c : Word) : Word := if c = 0xFFFFFFFF#32 then c else c + 1#32

/-! ## The ring buffer -/

/-- Where unread byte `i` stands: `(rb_head + i) mod RB_SIZE` (R17). -/
def rbOffset (P : Params) (s : State) (i : Nat) : Nat := (s.rbHead + i) % P.rbSize

/-- `rb_peek(i)` of R39, refused past `rb_used`. -/
def rbPeek (P : Params) (i : Nat) (s : State) : Run Byte :=
  if i < s.rbUsed then .ok (memRead s.rb (rbOffset P s i)) else .error (.refusal .peekPastUsed)

/-- `rb_peek(0)` to `rb_peek(n-1)`, refused as R39 refuses the last of them. -/
def rbPeekBytes (P : Params) (n : Nat) (s : State) : Run (List Byte) :=
  if n ≤ s.rbUsed then .ok ((List.range n).map fun i => memRead s.rb (rbOffset P s i))
  else .error (.refusal .peekPastUsed)

/-- `rb_drop(n)` of R40, refused outside its bound `n ≤ rb_used`. -/
def rbDrop (P : Params) (n : Nat) (s : State) : Run State :=
  if n ≤ s.rbUsed then .ok { s with rbHead := (s.rbHead + n) % P.rbSize, rbUsed := s.rbUsed - n }
  else .error (.refusal .dropPastUsed)

/-- The first half of `rb_push` (R41): a full buffer loses its oldest byte, counts an overflow and abandons the
candidate. -/
def rbMakeRoom (P : Params) (s : State) : State :=
  if s.rbUsed = P.rbSize then
    signal .overflowError
      { s with
        rbHead := (s.rbHead + 1) % P.rbSize
        rbUsed := P.rbSize - 1
        errOverflow := satInc s.errOverflow
        rxState := .seeking
        rxLen := 0#8 }
  else s

/-- The second half of `rb_push` (R41): the byte is stored after the unread ones. -/
def rbAppend (P : Params) (b : Byte) (s : State) : State :=
  { s with rb := memWrite s.rb (rbOffset P s s.rbUsed) b, rbUsed := s.rbUsed + 1 }

/-- `rb_push(b)` of R41. -/
def rbPush (P : Params) (b : Byte) (s : State) : State := rbAppend P b (rbMakeRoom P s)

/-! ## Fetching -/

/-- The next command of the stream (R106): `none` when the stream holds none (the block waits, R123), the command and
the state with its bytes taken off otherwise; refused when the stream ends inside the command's operands. -/
def fetch (s : State) : Run (Option (Instr × State)) :=
  match decodeCommand s.cmdIn with
  | .ok (i, rest) => .ok (some (i, { s with cmdIn := rest }))
  | .error .empty => .ok none
  | .error (.truncated m) => .error (.refusal (.truncatedCommand m))

end Sys2Proof.Machine
end

