-- ==== Sys2Proof/Machine/Operands.lean ====
section
/-! DEFINITION. Arithmetic on operands: sequence numbers (R79), the baud clamp (R91), elapsed time (R11, R87), emptying
a mailbox, and the status bytes of responses (R62). -/

namespace Sys2Proof.Machine

/-- `next_seq(s) = (s mod 15) + 1` (R79). -/
def nextSeq (s : Nibble) : Nibble := BitVec.ofNat 4 (s.toNat % 15 + 1)

/-- `clamp_baud(v) = min(max(v, BAUD_MIN), BAUD_MAX)` (R91). -/
def clampBaud (v : Word) : Word :=
  let low := if v ≤ baudMin then baudMin else v
  if low ≤ baudMax then low else baudMax

/-- `max(a, b)` of two `u32` values (R94). -/
def maxWord (a b : Word) : Word := if a ≤ b then b else a

/-- `now_reg -32 last_send`: the elapsed time modulo 2^32 (R11, R87). -/
def elapsed (s : State) : Word := s.nowReg - s.lastSend

/-- The next `n` free values for the bytes of an emptied mailbox (log 10). -/
def staleBytes (P : Params) (n : Nat) (s : State) : List Byte :=
  (List.range n).map fun i => P.staleByte (s.staleUsed + i)

/-- The transmit mailbox is empty, and any value may stand in the bytes it held (R86; spec/93_implementation_defined.md
section 2): free values (log 10). -/
def emptySlotTx (P : Params) (s : State) : State :=
  { s with
    slotTx := memWriteBytes s.slotTx 0 (staleBytes P s.slotTxLen.toNat s)
    slotTxLen := 0#8
    staleUsed := s.staleUsed + s.slotTxLen.toNat }

/-- The receive mailbox is empty, and any value may stand in the bytes it held (R104; spec/93_implementation_defined.md
section 2): free values (log 10). -/
def emptySlotRx (P : Params) (s : State) : State :=
  { s with
    slotRx := memWriteBytes s.slotRx 0 (staleBytes P s.slotRxLen.toNat s)
    slotRxLen := 0#8
    staleUsed := s.staleUsed + s.slotRxLen.toNat }

/-- The status codes of R62. -/
inductive Status where
  | ok | busy | length | invalid | ignored
  deriving DecidableEq, Repr

/-- The byte of a status (R62). -/
def statusByte : Status → Byte
  | .ok => 0#8
  | .busy => 1#8
  | .length => 2#8
  | .invalid => 3#8
  | .ignored => 4#8

/-- The response that is one status byte. -/
def respondStatus (st : Status) (s : State) : State := respond [statusByte st] s

end Sys2Proof.Machine
end

