-- ==== Sys2Proof/Machine/Flags.lean ====
section
/-! DEFINITION. The register map of READ_REG (spec/10_state.md R30 to R34): each register is computed from the state at
the moment of the read. -/

namespace Sys2Proof.Machine

/-- The two bits of RX_STATE (R18, R31). -/
def rxStateCode : RxState → BitVec 2
  | .seeking => 0#2
  | .accumulating => 1#2
  | .frameComplete => 2#2

/-- The two bits of TX_SRC (R22, R31). -/
def txSrcCode : TxSrc → BitVec 2
  | .idle => 0#2
  | .data => 1#2
  | .ack => 2#2

/-- RX_AVAIL (R31). -/
def rxAvail (s : State) : Bool := s.slotRxLen ≠ 0#8

/-- SEND_PENDING (R31). -/
def sendPending (s : State) : Bool := s.sendLen ≠ 0#8

/-- TX_BUSY (R31): a message waits in `slot_tx` or a frame waits in `send_buf`. -/
def txBusy (s : State) : Bool := s.slotTxLen ≠ 0#8 || s.sendLen ≠ 0#8

/-- PEER_IDLE (R31). -/
def peerIdle (P : Params) (s : State) : Bool := P.zeroRunIdle ≤ s.zeroRun.toNat

/-- STATUS (R31), bit 0 rightmost. -/
def regStatus (P : Params) (s : State) : Word :=
  0#19 ++ BitVec.ofBool (peerIdle P s) ++ BitVec.ofBool s.txRel ++ BitVec.ofBool s.txDue ++ BitVec.ofBool s.txSent
    ++ txSrcCode s.txSrc ++ rxStateCode s.rxState ++ BitVec.ofBool s.baudChange ++ BitVec.ofBool s.ackOwed
    ++ BitVec.ofBool (sendPending s) ++ BitVec.ofBool (txBusy s) ++ BitVec.ofBool (rxAvail s)

/-- SEQ (R32). -/
def regSeq (s : State) : Word := 0#16 ++ s.txIdx ++ s.seqLastSeen ++ s.seqCur

/-- DYN_CFG (R30). -/
def regDynCfg (s : State) : Word := 0#31 ++ BitVec.ofBool s.dynEnable

/-- LENGTHS (R33). -/
def regLengths (s : State) : Word := s.rxLen ++ s.slotRxLen ++ s.slotTxLen ++ s.sendLen

/-- RB_USED (R30). A count that 32 bits cannot hold has no stated value: a free value of the parameters (log 7). -/
def regRbUsed (P : Params) (s : State) : Word :=
  if s.rbUsed < 2 ^ 32 then BitVec.ofNat 32 s.rbUsed else P.wideRbUsed s.rbUsed

/-- The register numbered `r` (R30), or nothing for 0x12 to 0xFF. -/
def regValue (P : Params) (s : State) (r : Byte) : Option Word :=
  match r.toNat with
  | 0x00 => some (regStatus P s)
  | 0x01 => some (regSeq s)
  | 0x02 => some s.errAckChecksum
  | 0x03 => some s.errFrame
  | 0x04 => some s.errMsgChecksum
  | 0x05 => some s.errOverflow
  | 0x06 => some s.msgFromBrick
  | 0x07 => some s.msgFromBricklet
  | 0x08 => some s.baudCfg
  | 0x09 => some s.baudCurrent
  | 0x0A => some s.baudNew
  | 0x0B => some (regDynCfg s)
  | 0x0C => some s.dynMin
  | 0x0D => some s.zeroRun
  | 0x0E => some s.lastSend
  | 0x0F => some (regLengths s)
  | 0x10 => some (regRbUsed P s)
  | 0x11 => some s.nowReg
  | _ => none

end Sys2Proof.Machine
end

