-- ==== Sys2Proof/Machine/BaudRate.lean ====
section
/-! DEFINITION. The baud-rate commands and the query interface (spec/44_baud_and_counters.md R91 to R95, R101). -/

namespace Sys2Proof.Machine

/-- In fixed mode the fixed rate becomes the pending rate (R92, R93). -/
def pendFixedRate (s : State) : State :=
  if s.dynEnable = false then { s with baudNew := s.baudCfg, baudChange := true } else s

/-- SET_BAUD(v) of R92. -/
def execSetBaud (v : Word) (s : State) : Host.Outcome State Fault Refusal :=
  .next (respondStatus .ok (pendFixedRate { s with baudCfg := clampBaud v }))

/-- SET_DYN_CONFIG(en, min) of R93. -/
def execSetDynConfig (en : Byte) (min : Word) (s : State) : Host.Outcome State Fault Refusal :=
  .next (respondStatus .ok (pendFixedRate { s with dynEnable := en ≠ 0#8, dynMin := clampBaud min }))

/-- PROPOSE_BAUD(v) of R94. -/
def execProposeBaud (v : Word) (s : State) : Host.Outcome State Fault Refusal :=
  .next
    (if s.dynEnable = false then respondStatus .ignored (signal .proposalIgnored s)
     else respondStatus .ok { s with baudNew := maxWord (clampBaud v) s.dynMin, baudChange := true })

/-- BAUD_APPLY of R95, a sub-operation of TICK. -/
def baudApply (s : State) : State :=
  if s.baudChange = true ∧ s.txSrc = .idle then { s with baudCurrent := s.baudNew, baudChange := false } else s

/-- READ_REG(r) of R101 under the parameters `P`. -/
def readRegWith (P : Params) (r : Byte) (s : State) : State :=
  match regValue P s r with
  | some v => respond (statusByte .ok :: wordBytes v) s
  | none => respond (statusByte .invalid :: wordBytes 0#32) (signal .invalidCommand s)

/-- READ_REG(r) of R101. -/
def execReadReg (r : Byte) (s : State) : Host.Outcome State Fault Refusal := .next (readRegWith Config.params r s)

end Sys2Proof.Machine
end

