-- ==== Sys2Proof/Machine/SeqAck.lean ====
section
/-! DEFINITION. The sequence and ACK tracker (spec/42_seq_ack.md R79 to R84). -/

namespace Sys2Proof.Machine

/-- `release()` of R81: the outbound data frame's life ends. -/
def release (s : State) : State :=
  { s with sendLen := 0#8, txSent := false, txDue := false, txRel := false, seqCur := nextSeq s.seqCur }

/-- `inbound_ack(a)` of R80. -/
def inboundAck (a : Nibble) (s : State) : State :=
  if s.sendLen ≠ 0#8 ∧ s.txSent = true ∧ a = s.seqCur then
    if s.txSrc = .data then { s with txRel := true } else release s
  else s

/-- The delivery of a new payload (R82, last case; R99). -/
def deliver (P : Params) (own : Nibble) (p : List Byte) (s : State) : Run State := do
  let s ← store P .slotRx 0 p s
  .ok { s with
    slotRxLen := BitVec.ofNat 8 p.length
    seqLastSeen := own
    ackOwed := true
    msgFromBricklet := satInc s.msgFromBricklet }

/-- `inbound_data(s, p)` of R82: reserved number 0, duplicate, or new data. -/
def inboundData (P : Params) (own : Nibble) (p : List Byte) (s : State) : Run State :=
  if own = 0#4 then .ok (signal .frameErrorSeq0 { s with errFrame := satInc s.errFrame })
  else if own = s.seqLastSeen then .ok { s with ackOwed := true }
  else deliver P own p s

end Sys2Proof.Machine
end

