-- ==== Sys2Proof/Machine/Receive.lean ====
section
/-! DEFINITION. The receive path (spec/41_receive_resync.md R72 to R76): RX_BYTE and the scanner. -/

namespace Sys2Proof.Machine

/-- RX_BYTE(b) of R72 under the parameters `P`. -/
def rxByteWith (P : Params) (b : Byte) (s : State) : State := rbPush P b s

/-- RX_BYTE(b) of R72. -/
def execRxByte (b : Byte) (s : State) : Host.Outcome State Fault Refusal := .next (rxByteWith Config.params b s)

/-- `step_seek` of R74. -/
def stepSeek (P : Params) (s : State) : Run State := do
  let len ← rbPeek P 0 s
  match lenClass P len with
  | .idle => do
    let s ← rbDrop P 1 s
    .ok { s with zeroRun := satInc s.zeroRun }
  | .badlen => do
    let s ← rbDrop P 1 s
    .ok (signal .frameErrorBadlen { s with errFrame := satInc s.errFrame })
  | .ack => .ok { s with rxLen := len, rxState := .accumulating }
  | .data => .ok { s with rxLen := len, rxState := .accumulating }

/-- `consume(f)` of R76 for the frame whose bytes after the length byte are the sequence byte `sq` and `tail` (payload
and checksum). -/
def consume (P : Params) (len sq : Byte) (tail : List Byte) (s : State) : Run State := do
  let s ← rbDrop P len.toNat s
  let s := inboundAck (seqAckn sq) { s with zeroRun := 0#32 }
  if overhead < len.toNat then inboundData P (seqOwn sq) tail.dropLast s else .ok s

/-- What `step_complete` returns (R75). -/
inductive ScanProgress where
  | progress (s : State)
  | stall (s : State)
  deriving DecidableEq, Repr

/-- The scanner back at the frame-start position (R75). -/
def seekAgain (s : State) : State := { s with rxState := .seeking, rxLen := 0#8 }

/-- The checksum failure of R75: counted by the candidate's length, and only the length byte is dropped. -/
def skipByte (P : Params) (s : State) : Run State := do
  let s' :=
    if s.rxLen.toNat = overhead then signal .checksumErrorAck { s with errAckChecksum := satInc s.errAckChecksum }
    else signal .checksumErrorData { s with errMsgChecksum := satInc s.errMsgChecksum }
  let s' ← rbDrop P 1 s'
  .ok (seekAgain s')

/-- The stall condition of R75: a new data frame that the full receive mailbox cannot take. -/
def mustStall (own : Nibble) (s : State) : Bool :=
  overhead < s.rxLen.toNat && own ≠ 0#4 && own ≠ s.seqLastSeen && s.slotRxLen ≠ 0#8

/-- `step_complete` of R75. The frame's bytes come through `scratch`. A candidate too short to hold a sequence byte
or a checksum asks for bytes `scratch` does not give it: a fault, in states R36 rules out (log 9). -/
def stepComplete (P : Params) (s : State) : Run ScanProgress := do
  let bytes ← rbPeekBytes P s.rxLen.toNat s
  let s ← store P .scratch 0 bytes s
  let g ← load P .scratch s.rxLen.toNat s
  match g with
  | len :: sq :: tail =>
    if g.getLast? ≠ some (P.cs g.dropLast) then do
      let s ← skipByte P s
      .ok (.progress s)
    else if mustStall (seqOwn sq) s then .ok (.stall s)
    else do
      let s ← consume P len sq tail s
      .ok (.progress (seekAgain s))
  | _ => .error (.fault (.outOfRange .scratch g.length))

/-- SCAN's loop (R73) with a bound on its passes. -/
def scanLoop (P : Params) : Nat → State → Run State
  | 0, s => .ok s
  | fuel + 1, s =>
    match s.rxState with
    | .seeking => if s.rbUsed = 0 then .ok s else do
      let s ← stepSeek P s
      scanLoop P fuel s
    | .accumulating =>
      if s.rbUsed < s.rxLen.toNat then .ok s else scanLoop P fuel { s with rxState := .frameComplete }
    | .frameComplete => do
      match ← stepComplete P s with
      | .stall s => .ok s
      | .progress s => scanLoop P fuel s

/-- A bound on the passes of SCAN. DEDUCED from R73 (log 11): three passes for each unread byte, and the last ones. -/
def scanFuel (s : State) : Nat := 3 * s.rbUsed + 3

/-- SCAN of R73: the receive state machine runs until no further step is possible. -/
def scan (P : Params) (s : State) : Run State := scanLoop P (scanFuel s) s

end Sys2Proof.Machine
end

