-- ==== Sys2Proof/Machine/Codec.lean ====
section
/-! DEFINITION. The frame codec (spec/40_frame_codec.md R65 to R71): pure functions of their operands and of CS. -/

namespace Sys2Proof.Machine

/-- LEN, SEQ and payload of a data frame: the bytes its checksum covers (R54, R58, R66). -/
def dataBody (p : List Byte) (own ackn : Nibble) : List Byte :=
  BitVec.ofNat 8 (p.length + overhead) :: seqByte own ackn :: p

/-- A list of bytes with its checksum behind it (R66, R67). -/
def withChecksum (P : Params) (body : List Byte) : List Byte := body ++ [P.cs body]

/-- ENCODE_DATA(p, own, ackn) of R66, refused outside its operands' ranges. -/
def encodeData (P : Params) (p : List Byte) (own ackn : Nibble) : Run (List Byte) :=
  if P.minMsgLen ≤ p.length ∧ p.length ≤ P.maxMsgLen ∧ own ≠ 0#4 then .ok (withChecksum P (dataBody p own ackn))
  else .error (.refusal .encodeOperands)

/-- ENCODE_ACK(ackn) of R67: the OWN nibble is 0. -/
def encodeAck (P : Params) (ackn : Nibble) : List Byte := withChecksum P [0x03#8, seqByte 0#4 ackn]

/-- The kind of a frame candidate (R68). -/
inductive FrameKind where
  | ack | data
  deriving DecidableEq, Repr

/-- The results of DECODE (R68). -/
inductive Decoded where
  | idle
  | lengthError
  | incomplete
  | checksumError (kind : FrameKind)
  | okAck (ackn : Nibble)
  | okData (own ackn : Nibble) (payload : List Byte)
  deriving DecidableEq, Repr

/-- The two cases ACK and DATA of DECODE (R68) on the complete candidate `g`. -/
def decodeComplete (P : Params) (kind : FrameKind) (g : List Byte) : Decoded :=
  if g.getLast? ≠ some (P.cs g.dropLast) then .checksumError kind
  else
    match g with
    | _ :: sq :: tail =>
      match kind with
      | .ack => .okAck (seqAckn sq)
      | .data => .okData (seqOwn sq) (seqAckn sq) tail.dropLast
    | _ => .incomplete

/-- DECODE(f) of R68, where `f` is `len :: rest`: R68 asks for at least one byte. -/
def decodeFrame (P : Params) (len : Byte) (rest : List Byte) : Decoded :=
  match lenClass P len with
  | .idle => .idle
  | .badlen => .lengthError
  | .ack => if rest.length + 1 < len.toNat then .incomplete else decodeComplete P .ack ((len :: rest).take len.toNat)
  | .data => if rest.length + 1 < len.toNat then .incomplete else decodeComplete P .data ((len :: rest).take len.toNat)

end Sys2Proof.Machine
end

