-- ==== Sys2Proof/Machine/Send.lean ====
section
/-! DEFINITION. The send engine (spec/43_send_engine.md R85 to R88): SUBMIT, framing, the retransmission timer and
TX_BYTE. -/

namespace Sys2Proof.Machine

/-! ## SUBMIT -/

/-- SUBMIT(p) of R85 under the parameters `P`: the length is checked first (R111). -/
def submitWith (P : Params) (p : List Byte) (s : State) : Run State :=
  if p.length < P.minMsgLen ∨ P.maxMsgLen < p.length then .ok (respondStatus .length (signal .submitLengthError s))
  else if s.slotTxLen ≠ 0#8 ∨ s.sendLen ≠ 0#8 then .ok (respondStatus .busy (signal .busyError s))
  else do
    let s ← store P .slotTx 0 p s
    .ok (respondStatus .ok
      { s with slotTxLen := BitVec.ofNat 8 p.length, msgFromBrick := satInc s.msgFromBrick })

/-- SUBMIT(p) of R85. -/
def execSubmit (p : List Byte) (s : State) : Host.Outcome State Fault Refusal :=
  runOutcome (submitWith Config.params p s)

/-! ## Framing and the timer (sub-operations of TICK) -/

/-- FRAME_FROM_SLOT of R86. -/
def frameFromSlot (P : Params) (s : State) : Run State := do
  let p ← load P .slotTx s.slotTxLen.toNat s
  let f ← encodeData P p s.seqCur s.seqLastSeen
  let s ← store P .sendBuf 0 f s
  .ok (emptySlotTx P { s with
    sendLen := s.slotTxLen + 3#8
    txSent := false
    txRel := false
    txDue := true })

/-- RETX_TIMER of R87. -/
def retxTimer (P : Params) (s : State) : State :=
  if s.sendLen ≠ 0#8 ∧ s.txSent = true ∧ s.txDue = false ∧ s.txSrc ≠ .data ∧ P.txTimeoutMs ≤ (elapsed s).toNat then
    { s with txDue := true }
  else s

/-! ## TX_BYTE -/

/-- The start of a data frame (R88): the sequence byte is refreshed, then the checksum recomputed. An empty send buffer
has no last byte: a fault, in states R36 rules out (log 9). -/
def startData (P : Params) (s : State) : Run State :=
  if s.sendLen = 0#8 then .error (.fault (.outOfRange .sendBuf 0))
  else do
    let s ← store P .sendBuf 1 [seqByte s.seqCur s.seqLastSeen] s
    let body ← load P .sendBuf (s.sendLen.toNat - 1) s
    let s ← store P .sendBuf (s.sendLen.toNat - 1) [P.cs body] s
    .ok { s with
      txSrc := .data
      txIdx := 0#8
      txDue := false
      txSent := true
      lastSend := s.nowReg
      ackOwed := false }

/-- The start of an ACK-only frame (R88). -/
def startAck (P : Params) (s : State) : Run State := do
  let s ← store P .ackBuf 0 (encodeAck P s.seqLastSeen) s
  .ok { s with txSrc := .ack, txIdx := 0#8, ackOwed := false }

/-- The index moves past the byte just sent; after the frame's last byte the boundary is reached, and a data frame
whose ACK has come is released (R88). `n` is the frame's length. -/
def txAdvance (n : Byte) (s : State) : State :=
  if s.txIdx + 1#8 = n then
    if s.txSrc = .data ∧ s.txRel = true then release { s with txSrc := .idle, txIdx := 0#8 }
    else { s with txSrc := .idle, txIdx := 0#8 }
  else { s with txIdx := s.txIdx + 1#8 }

/-- The next byte of the frame being transmitted (R88). -/
def txEmit (P : Params) (s : State) : Run State :=
  match s.txSrc with
  | .data => do
    let b ← loadAt P .sendBuf s.txIdx.toNat s
    .ok (respond [b] (txAdvance s.sendLen s))
  | .ack | .idle => do
    let b ← loadAt P .ackBuf s.txIdx.toNat s
    .ok (respond [b] (txAdvance 3#8 s))

/-- TX_BYTE() of R88 under the parameters `P`: at a frame boundary a due data frame goes before an owed ACK, and with
neither the idle filler 0x00 is sent. -/
def txByteWith (P : Params) (s : State) : Run State :=
  match s.txSrc with
  | .data | .ack => txEmit P s
  | .idle =>
    if s.txDue then do
      let s ← startData P s
      txEmit P s
    else if s.ackOwed then do
      let s ← startAck P s
      txEmit P s
    else .ok (respond [0x00#8] s)

/-- TX_BYTE() of R88. -/
def execTxByte (s : State) : Host.Outcome State Fault Refusal := runOutcome (txByteWith Config.params s)

end Sys2Proof.Machine
end

