-- ==== Sys2Proof/Machine/Control.lean ====
section
/-! DEFINITION. TICK, DRAIN, RESET and the unassigned opcodes (spec/45_tick_and_host.md R102 to R106, R63). -/

namespace Sys2Proof.Machine

/-- The middle of TICK (R102): framing, or else the retransmission timer. -/
def frameOrTimer (P : Params) (s : State) : Run State :=
  if s.sendLen = 0#8 ∧ s.slotTxLen ≠ 0#8 then frameFromSlot P s else .ok (retxTimer P s)

/-- TICK(now) of R102 under the parameters `P`. -/
def tickWith (P : Params) (now : Word) (s : State) : Run State := do
  let s ← scan P { s with nowReg := now }
  let s ← frameOrTimer P s
  .ok (baudApply s)

/-- TICK(now) of R102. -/
def execTick (now : Word) (s : State) : Host.Outcome State Fault Refusal :=
  runOutcome (tickWith Config.params now s)

/-- DRAIN() of R104 under the parameters `P`. -/
def drainWith (P : Params) (s : State) : Run State :=
  if s.slotRxLen = 0#8 then .ok (respond [0#8] s)
  else do
    let p ← load P .slotRx s.slotRxLen.toNat s
    .ok (respond (s.slotRxLen :: p) (emptySlotRx P s))

/-- DRAIN() of R104. -/
def execDrain (s : State) : Host.Outcome State Fault Refusal := runOutcome (drainWith Config.params s)

/-- RESET() of R105: every field of R35 takes its reset value. The command stream and what has been emitted belong to the
environment and stay (log 3), and the free values already used stay used (log 10). -/
def resetState (P : Params) (s : State) : State :=
  { State.resetWith P with cmdIn := s.cmdIn, out := s.out, events := s.events, staleUsed := s.staleUsed }

/-- RESET() of R105. -/
def execReset (s : State) : Host.Outcome State Fault Refusal := .next (resetState Config.params s)

/-- An unassigned opcode (R63, R106): the response is INVALID, nothing else changes. The opcode's value does not
matter. -/
def execInvalid (_op : Byte) (s : State) : Host.Outcome State Fault Refusal :=
  .next (respondStatus .invalid (signal .invalidCommand s))

end Sys2Proof.Machine
end

