-- ==== Sys2Proof/Machine/Wire.lean ====
section
/-! DEFINITION. The four wire classes of spec/opcode_table.json (R54 to R59). They are no operations of the block's ports
(R5): they are what the peer's bytes are, and SCAN (R73) consumes them. DESIGN CHOICE (log 4): the meaning of one is its
receipt, that is an RX_BYTE strobe for each of its bytes (R64) and then SCAN. -/

namespace Sys2Proof.Machine

/-- The bytes arrive, oldest first (R42, R72). -/
def rbPushBytes (P : Params) (bytes : List Byte) (s : State) : State := bytes.foldl (fun s b => rbPush P b s) s

/-- The bytes arrive, then the scanner runs until it can do no more (R72, R73). -/
def receiveUnit (P : Params) (bytes : List Byte) (s : State) : Run State := scan P (rbPushBytes P bytes s)

/-- W_IDLE: the idle byte of R56, which step_seek consumes and counts (R74). -/
def execWIdle (s : State) : Host.Outcome State Fault Refusal :=
  runOutcome (receiveUnit Config.params (encode .wIdle) s)

/-- W_ACK: the ACK frame of R55, which step_complete checks and consumes (R75, R76, R80). -/
def execWAck (own ackn : Nibble) (chk : Byte) (s : State) : Host.Outcome State Fault Refusal :=
  runOutcome (receiveUnit Config.params (encode (.wAck own ackn chk)) s)

/-- W_DATA: the data frame of R54, which step_complete checks and consumes or stalls on (R75, R76, R80, R82). -/
def execWData (own ackn : Nibble) (p : List Byte) (chk : Byte) (s : State) : Host.Outcome State Fault Refusal :=
  runOutcome (receiveUnit Config.params (encode (.wData own ackn p chk)) s)

/-- W_BADLEN: a byte that is no frame's length, which step_seek drops and counts (R59, R74). -/
def execWBadlen (len : Byte) (s : State) : Host.Outcome State Fault Refusal :=
  runOutcome (receiveUnit Config.params (encode (.wBadlen len)) s)

end Sys2Proof.Machine
end

