-- ==== Sys2Proof/Machine/Dispatch.lean ====
section
/-! DEFINITION. One arm for each instruction: the meaning it calls. -/

namespace Sys2Proof.Machine

/-- The meaning of each instruction. -/
def exec (i : Instr) (s : State) : Host.Outcome State Fault Refusal :=
  match i with
  | .reset => Sys2Proof.Machine.execReset s
  | .tick now => Sys2Proof.Machine.execTick now s
  | .rxByte b => Sys2Proof.Machine.execRxByte b s
  | .txByte => Sys2Proof.Machine.execTxByte s
  | .submit p => Sys2Proof.Machine.execSubmit p s
  | .drain => Sys2Proof.Machine.execDrain s
  | .readReg r => Sys2Proof.Machine.execReadReg r s
  | .setBaud v => Sys2Proof.Machine.execSetBaud v s
  | .setDynConfig en min => Sys2Proof.Machine.execSetDynConfig en min s
  | .proposeBaud v => Sys2Proof.Machine.execProposeBaud v s
  | .invalid op => Sys2Proof.Machine.execInvalid op s
  | .wIdle => Sys2Proof.Machine.execWIdle s
  | .wAck own ackn chk => Sys2Proof.Machine.execWAck own ackn chk s
  | .wData own ackn p chk => Sys2Proof.Machine.execWData own ackn p chk s
  | .wBadlen len => Sys2Proof.Machine.execWBadlen len s

end Sys2Proof.Machine
end

