-- ==== Sys2Proof/Machine/Step.lean ====
section
/-! DEFINITION. One step: the next operation of the command stream (spec/45_tick_and_host.md R106). -/

namespace Sys2Proof.Machine

/-- One step. An empty stream: the block holds its state and waits (R122, R123). -/
def step (s : State) : Host.Outcome State Fault Refusal :=
  match fetch s with
  | .ok none => .next s
  | .ok (some (i, s')) => exec i s'
  | .error (.fault f) => .fault f
  | .error (.refusal r) => .refused r

/-- The state whose next step runs the instruction of a table word: the command stream is that word's bytes (log 3). -/
def State.withFetchWord (s : State) (nbits w : Nat) : State := { s with cmdIn := tableBytes nbits w }

end Sys2Proof.Machine
end

