-- ==== Sys2Proof/Safety.lean ====
section
/-! DEFINITION. What counts as a safe state (spec/10_state.md R36, R28), and the terms statements use: runs of several
operations, the unread bytes of the ring, the counters' account of events (R98). -/

namespace Sys2Proof.Machine

/-- The bytes of the ring from the frame-start position on: unread byte 0 to unread byte `n-1` (R17). -/
def ringBytes (P : Params) (n : Nat) (s : State) : List Byte :=
  (List.range n).map fun i => memRead s.rb (rbOffset P s i)

/-- All unread bytes, oldest first (R17). -/
def unread (P : Params) (s : State) : List Byte := ringBytes P s.rbUsed s

/-- A length that is 0 or lies in the given range (R36, items 2 and 3). -/
def ZeroOrIn (lo hi : Nat) (len : Byte) : Prop := len = 0#8 ∨ lo ≤ len.toNat ∧ len.toNat ≤ hi

/-- The invariant: R36 with the baud ranges of R28, the canonical form of every storage area and its bounds (R38).
Items 10 and 11 of R36 are stated without what RX_BYTE and DRAIN do not keep (log 6). -/
structure Inv (P : Params) (s : State) : Prop where
  /-- every area is in canonical form -/
  mem_wf : ∀ a, (areaMem s a).wf
  /-- no area holds a byte past its size (R38) -/
  mem_bounded : ∀ a, ∀ c ∈ areaMem s a, c.1 < areaSize P a
  /-- R17 -/
  rbHead_lt : s.rbHead < P.rbSize
  /-- R36 item 1 -/
  rbUsed_le : s.rbUsed ≤ P.rbSize
  /-- R36 item 2 -/
  slotTxLen_range : ZeroOrIn P.minMsgLen P.maxMsgLen s.slotTxLen
  /-- R36 item 2 -/
  slotRxLen_range : ZeroOrIn P.minMsgLen P.maxMsgLen s.slotRxLen
  /-- R36 item 3 -/
  sendLen_range : ZeroOrIn (overhead + P.minMsgLen) P.maxFrameLen s.sendLen
  /-- R36 item 4 -/
  data_sent : s.txSrc = .data → s.sendLen ≠ 0#8 ∧ s.txSent = true
  /-- R36 item 5 -/
  rel_data : s.txRel = true → s.txSrc = .data
  /-- R36 item 6 -/
  due_waiting : s.txDue = true → s.sendLen ≠ 0#8 ∧ s.txSrc ≠ .data
  /-- R36 item 7 -/
  idle_idx : s.txSrc = .idle → s.txIdx = 0#8
  /-- R36 item 7 -/
  data_idx : s.txSrc = .data → s.txIdx.toNat < s.sendLen.toNat
  /-- R36 item 7 -/
  ack_idx : s.txSrc = .ack → s.txIdx.toNat < 3
  /-- R36 item 8 -/
  seqCur_pos : s.seqCur ≠ 0#4
  /-- R36 item 9 -/
  seeking_len : s.rxState = .seeking → s.rxLen = 0#8
  /-- R36 item 10, but for its last clause -/
  accumulating_candidate : s.rxState = .accumulating →
    1 ≤ s.rbUsed ∧ s.rxLen = memRead s.rb (rbOffset P s 0) ∧ (lenClass P s.rxLen = .ack ∨ lenClass P s.rxLen = .data)
  /-- R36 item 11, its first clause and the candidate's class -/
  complete_candidate : s.rxState = .frameComplete →
    s.rxLen.toNat ≤ s.rbUsed ∧ s.rxLen = memRead s.rb (rbOffset P s 0) ∧ lenClass P s.rxLen = .data
  /-- R36 item 12 -/
  one_message : s.slotTxLen ≠ 0#8 → s.sendLen = 0#8
  /-- R28 -/
  baudCfg_inRange : BaudInRange s.baudCfg
  /-- R28 -/
  baudCurrent_inRange : BaudInRange s.baudCurrent
  /-- R28 -/
  baudNew_inRange : BaudInRange s.baudNew
  /-- R28 -/
  dynMin_inRange : BaudInRange s.dynMin

/-- R36 item 11, what it says of the stalled frame itself: a data frame with a valid checksum, whose own number is
neither 0 nor the one last seen. -/
def StalledFrameValid (P : Params) (s : State) : Prop :=
  s.rxState = .frameComplete →
    ∃ sq tail,
      ringBytes P s.rxLen.toNat s = s.rxLen :: sq :: tail
      ∧ (s.rxLen :: sq :: tail).getLast? = some (P.cs (s.rxLen :: sq :: tail).dropLast)
      ∧ seqOwn sq ≠ 0#4 ∧ seqOwn sq ≠ s.seqLastSeen

/-- R36 as the spec words it, all twelve items. RX_BYTE can end the first of the two clauses added here and DRAIN the second,
until the next TICK scans (R72, R104, R125; log 6). -/
structure R36 (P : Params) (s : State) : Prop extends Inv P s where
  /-- item 10, its last clause -/
  accumulating_short : s.rxState = .accumulating → s.rbUsed < s.rxLen.toNat
  /-- item 11, what it says of the frame -/
  stalled_valid : StalledFrameValid P s
  /-- item 11, its last clause -/
  stalled_mailbox : s.rxState = .frameComplete → s.slotRxLen ≠ 0#8

/-- The block is at rest on the receive side: nothing unread, no candidate. -/
def RingIdle (s : State) : Prop := s.rxState = .seeking ∧ s.rxLen = 0#8 ∧ s.rbUsed = 0

/-- SCAN can do no more (R73): nothing unread, or a candidate still too short, or a new data frame waiting for the
receive mailbox. -/
def ScanQuiescent (s : State) : Prop :=
  (s.rxState = .seeking ∧ s.rbUsed = 0)
  ∨ (s.rxState = .accumulating ∧ s.rbUsed < s.rxLen.toNat)
  ∨ (s.rxState = .frameComplete ∧ s.slotRxLen ≠ 0#8)

/-- A message is in flight (R85): in the transmit mailbox or in the send buffer. -/
def InFlight (s : State) : Prop := s.slotTxLen ≠ 0#8 ∨ s.sendLen ≠ 0#8

/-- Somewhere in the bytes a valid frame of either kind stands whose ACKN nibble is `a` (R54, R55, R68). -/
def AckStandsIn (P : Params) (a : Nibble) (bytes : List Byte) : Prop :=
  ∃ pre len rest, bytes = pre ++ len :: rest
    ∧ (decodeFrame P len rest = .okAck a ∨ ∃ own p, decodeFrame P len rest = .okData own a p)

/-- The bytes a scanning operation has before it (R72, R73): the unread ones at a TICK, and a wire unit's own behind them.
An operation that does not scan has none. -/
def scannedBytes (P : Params) (i : Instr) (s : State) : List Byte :=
  match i with
  | .tick _ => unread P s
  | .wIdle | .wAck _ _ _ | .wData _ _ _ _ | .wBadlen _ => unread P (rbPushBytes P (encode i) s)
  | .reset | .rxByte _ | .txByte | .submit _ | .drain | .readReg _ | .setBaud _ | .setDynConfig _ _ | .proposeBaud _
  | .invalid _ => []

/-- The reset values of R35: every field but the areas' contents, which R35 leaves unspecified. -/
structure AtReset (P : Params) (s : State) : Prop where
  ring : s.rbHead = 0 ∧ s.rbUsed = 0
  receive : s.rxState = .seeking ∧ s.rxLen = 0#8
  lengths : s.sendLen = 0#8 ∧ s.slotTxLen = 0#8 ∧ s.slotRxLen = 0#8
  transmit : s.txSrc = .idle ∧ s.txIdx = 0#8 ∧ s.txSent = false ∧ s.txDue = false ∧ s.txRel = false
  sequence : s.seqCur = 1#4 ∧ s.seqLastSeen = 0#4 ∧ s.ackOwed = false
  time : s.nowReg = 0#32 ∧ s.lastSend = 0#32
  zeroRun : s.zeroRun = 0#32
  errors : s.errAckChecksum = 0#32 ∧ s.errFrame = 0#32 ∧ s.errMsgChecksum = 0#32 ∧ s.errOverflow = 0#32
  messages : s.msgFromBrick = 0#32 ∧ s.msgFromBricklet = 0#32
  rates : s.baudCfg = P.baudReset ∧ s.baudCurrent = P.baudReset ∧ s.baudNew = P.baudReset
  change : s.baudChange = false
  dynamic : s.dynEnable = P.dynEnableReset ∧ s.dynMin = P.dynMinReset

/-- Several operations one after the other, up to the first that stops. -/
def execAll : List Instr → State → Host.Outcome State Fault Refusal
  | [], s => .next s
  | i :: is, s =>
    match exec i s with
    | .next t => execAll is t
    | .fault f => .fault f
    | .refused r => .refused r

/-- How many of the listed events make `err_frame` count (R98). -/
def frameErrors (es : List Event) : Nat := es.count .frameErrorBadlen + es.count .frameErrorSeq0

/-- The state `t` comes from `s` by signalling exactly the events `es`, and each error counter counted, saturating,
exactly the events of R98 that are its own. -/
def CountsEvents (s t : State) (es : List Event) : Prop :=
  t.events = s.events ++ es
  ∧ t.errAckChecksum = satInc^[es.count .checksumErrorAck] s.errAckChecksum
  ∧ t.errFrame = satInc^[frameErrors es] s.errFrame
  ∧ t.errMsgChecksum = satInc^[es.count .checksumErrorData] s.errMsgChecksum
  ∧ t.errOverflow = satInc^[es.count .overflowError] s.errOverflow

end Sys2Proof.Machine
end

