-- ==== Sys2Proof/Certificates/Slice0/Obligations.lean ====
section
/-! DEFINITION. The statements for the provers. Each formalises rules of spec/, named in its docstring; the parameters are
`Config.params`, any admissible set (R7 to R9), unless a statement quantifies over them. -/

open Sys2Proof Sys2Proof.Machine

/-! ## Encodings -/

/-- R61, R63: decoding the encoding of any well-formed command gives the command back and leaves the rest of the stream. -/
def Obligations.CommandDecodeEncode : Prop :=
  ∀ (P : Params) (i : Instr) (rest : List Byte), i.isWire = false → i.wf P = true →
    decodeCommand (encode i ++ rest) = .ok (i, rest)

/-- R54 to R57, R60: decoding the encoding of any well-formed wire unit gives the unit back and leaves the rest. -/
def Obligations.WireDecodeEncode : Prop :=
  ∀ (P : Params) (i : Instr) (rest : List Byte), i.isWire = true → i.wf P = true →
    decodeWire P (encode i ++ rest) = .ok (i, rest)

/-- R61, R63: a stream that decodes is the encoding of the command it decodes to, and what follows it; the command is
well-formed. So no two commands share an encoding. -/
def Obligations.CommandEncodeDecode : Prop :=
  ∀ (P : Params) (bytes : List Byte) (i : Instr) (rest : List Byte), decodeCommand bytes = .ok (i, rest) →
    bytes = encode i ++ rest ∧ i.isWire = false ∧ i.wf P = true

/-- R54 to R57, R60: the same of the wire. -/
def Obligations.WireEncodeDecode : Prop :=
  ∀ (P : Params) (bytes : List Byte) (i : Instr) (rest : List Byte), decodeWire P bytes = .ok (i, rest) →
    bytes = encode i ++ rest ∧ i.isWire = true ∧ i.wf P = true

/-- Words written out from R61 and R54 to R57 decode to what they stand for (the wire words under TI of R10). -/
def Obligations.WrittenWordsDecode : Prop :=
  decodeCommand [0x02, 0x01, 0x00, 0x00, 0x00] = .ok (.tick 1#32, [])
  ∧ decodeCommand [0x08, 0xC0, 0xC6, 0x2D, 0x00] = .ok (.setBaud 3000000#32, [])
  ∧ decodeCommand [0x05, 0x02, 0x01, 0x02, 0x06] = .ok (.submit [0x01, 0x02], [0x06])
  ∧ decodeWire testParams [0x04, 0x10, 0xAA, 0x35] = .ok (.wData 1#4 0#4 [0xAA] 0x35, [])
  ∧ decodeWire testParams [0x03, 0x21, 0x4E, 0x00] = .ok (.wAck 2#4 1#4 0x4E, [0x00])

/-- R106: a step runs the next command of the stream, whole and once; an empty stream leaves the block as it is; a stream
that ends inside a command's operands is refused; and there is no fourth case. -/
def Obligations.StepRunsDecoded : Prop :=
  (∀ (s : State) (i : Instr) (rest : List Byte), decodeCommand s.cmdIn = .ok (i, rest) →
      step s = exec i { s with cmdIn := rest })
  ∧ (∀ s : State, s.cmdIn = [] → step s = .next s)
  ∧ (∀ (s : State) (m : String), decodeCommand s.cmdIn = .error (.truncated m) →
      step s = .refused (.truncatedCommand m))
  ∧ (∀ s : State, s.cmdIn ≠ [] →
      (∃ i rest, decodeCommand s.cmdIn = .ok (i, rest)) ∨ ∃ m, decodeCommand s.cmdIn = .error (.truncated m))

/-- R57: the class of a length byte, range by range. -/
def Obligations.LengthClassTable : Prop :=
  ∀ (P : Params) (len : Byte),
    (lenClass P len = .idle ↔ len.toNat = 0)
    ∧ (lenClass P len = .ack ↔ len.toNat = 3)
    ∧ (lenClass P len = .data ↔ 3 + P.minMsgLen ≤ len.toNat ∧ len.toNat ≤ P.maxMsgLen + 3)
    ∧ (lenClass P len = .badlen ↔
        len.toNat = 1 ∨ len.toNat = 2 ∨ (4 ≤ len.toNat ∧ len.toNat ≤ 3 + P.minMsgLen - 1)
        ∨ (P.maxMsgLen + 3 + 1 ≤ len.toNat))

/-! ## Frame codec -/

/-- R70: DECODE of an encoded frame gives back what was encoded, whatever bytes follow the frame (R68). -/
def Obligations.CodecRoundTrip : Prop :=
  ∀ (P : Params) (extra : List Byte),
    (∀ (p : List Byte) (own ackn : Nibble), P.minMsgLen ≤ p.length → p.length ≤ P.maxMsgLen → own ≠ 0#4 →
      ∃ len rest, encodeData P p own ackn = .ok (len :: rest)
        ∧ decodeFrame P len (rest ++ extra) = .okData own ackn p)
    ∧ (∀ ackn : Nibble, ∃ len rest, encodeAck P ackn = len :: rest
        ∧ decodeFrame P len (rest ++ extra) = .okAck ackn)

/-- R71: a valid frame with exactly one byte changed, not the length byte, gives ChecksumError of its own kind. -/
def Obligations.SingleByteCorruption : Prop :=
  ∀ (P : Params) (len : Byte) (pre post : List Byte) (a b : Byte), a ≠ b →
    pre.length + post.length + 2 = len.toNat →
      (∀ ackn, decodeFrame P len (pre ++ a :: post) = .okAck ackn →
        decodeFrame P len (pre ++ b :: post) = .checksumError .ack)
      ∧ (∀ own ackn p, decodeFrame P len (pre ++ a :: post) = .okData own ackn p →
        decodeFrame P len (pre ++ b :: post) = .checksumError .data)

/-- R75 against R68: the scanner's judgement of a complete candidate is DECODE's. A checksum error drops one byte and is
counted by its kind; an ACK frame is consumed and its ACK honoured; a data frame stalls exactly when it is new and the
mailbox is full, and is consumed otherwise. -/
def Obligations.ScannerAgreesWithDecode : Prop :=
  ∀ (P : Params) (s : State), s.scratch.wf → s.rxLen.toNat ≤ s.rbUsed →
    (lenClass P s.rxLen = .ack ∨ lenClass P s.rxLen = .data) → s.rxLen = memRead s.rb (rbOffset P s 0) →
    match decodeFrame P s.rxLen (ringBytes P s.rxLen.toNat s).tail with
    | .checksumError kind =>
      ∃ t, stepComplete P s = .ok (.progress t) ∧ t.rbUsed = s.rbUsed - 1 ∧ t.rxState = .seeking
        ∧ t.seqLastSeen = s.seqLastSeen ∧ t.slotRxLen = s.slotRxLen ∧ t.sendLen = s.sendLen ∧ t.ackOwed = s.ackOwed
        ∧ t.errAckChecksum = (if kind = .ack then satInc s.errAckChecksum else s.errAckChecksum)
        ∧ t.errMsgChecksum = (if kind = .data then satInc s.errMsgChecksum else s.errMsgChecksum)
    | .okAck ackn =>
      ∃ t, stepComplete P s = .ok (.progress t) ∧ t.rbUsed = s.rbUsed - 3 ∧ t.rxState = .seeking ∧ t.zeroRun = 0#32
        ∧ t.seqCur = (inboundAck ackn s).seqCur ∧ t.sendLen = (inboundAck ackn s).sendLen
        ∧ t.txRel = (inboundAck ackn s).txRel
        ∧ t.slotRxLen = s.slotRxLen ∧ t.ackOwed = s.ackOwed ∧ t.seqLastSeen = s.seqLastSeen
    | .okData own ackn p =>
      if own ≠ 0#4 ∧ own ≠ s.seqLastSeen ∧ s.slotRxLen ≠ 0#8 then
        ∃ t, stepComplete P s = .ok (.stall t) ∧ t = { s with scratch := t.scratch }
      else
        ∃ t, stepComplete P s = .ok (.progress t) ∧ t.rbUsed = s.rbUsed - (p.length + 3) ∧ t.rxState = .seeking
          ∧ t.zeroRun = 0#32 ∧ t.seqCur = (inboundAck ackn s).seqCur ∧ t.sendLen = (inboundAck ackn s).sendLen
          ∧ t.seqLastSeen = (if own = 0#4 then s.seqLastSeen else own)
          ∧ t.ackOwed = (if own = 0#4 then s.ackOwed else true)
          ∧ t.errFrame = (if own = 0#4 then satInc s.errFrame else s.errFrame)
    | _ => False

/-! ## RX_BYTE and the ring -/

/-- R41, R72: RX_BYTE appends its byte after the unread ones; into a full buffer it first drops the oldest byte, counts
one overflow and abandons the candidate. Nothing else changes. -/
def Obligations.RxBytePushes : Prop :=
  ∀ (b : Byte) (s : State), Inv Config.params s →
    ∃ t, exec (.rxByte b) s = .next t
      ∧ (if s.rbUsed = Config.params.rbSize then
          t = { s with
                rb := t.rb
                rbHead := (s.rbHead + 1) % Config.params.rbSize
                rbUsed := Config.params.rbSize
                errOverflow := satInc s.errOverflow
                rxState := .seeking
                rxLen := 0#8
                events := s.events ++ [.overflowError] }
          ∧ ∀ j, memRead t.rb j =
              if j = ((s.rbHead + 1) % Config.params.rbSize + (Config.params.rbSize - 1)) % Config.params.rbSize then b
              else memRead s.rb j
        else
          t = { s with rb := t.rb, rbUsed := s.rbUsed + 1 }
          ∧ ∀ j, memRead t.rb j =
              if j = (s.rbHead + s.rbUsed) % Config.params.rbSize then b else memRead s.rb j)

/-- R126 (with R42, R78): between two TICKs, of the bytes delivered beyond RB_SIZE - rb_used each counts one overflow and
loses the oldest unread byte; the others wait in the order they came. -/
def Obligations.OverflowLosesOldest : Prop :=
  ∀ (bytes : List Byte) (s : State), Inv Config.params s →
    ∃ t, execAll (asmRx bytes) s = .next t
      ∧ t.rbUsed = min (s.rbUsed + bytes.length) Config.params.rbSize
      ∧ t.errOverflow = satInc^[s.rbUsed + bytes.length - Config.params.rbSize] s.errOverflow
      ∧ unread Config.params t =
          (unread Config.params s ++ bytes).drop (s.rbUsed + bytes.length - Config.params.rbSize)

/-! ## TX_BYTE -/

/-- R88, R56: with nothing under way, nothing due and no ACK owed, TX_BYTE returns 0x00 and changes no state. -/
def Obligations.TxByteIdleFiller : Prop :=
  ∀ s : State, s.txSrc = .idle → s.txDue = false → s.ackOwed = false →
    exec .txByte s = .next { s with out := s.out ++ [0x00#8] }

/-- R88: at a frame boundary a due data frame starts, before any owed ACK: its sequence byte is refreshed, its checksum
recomputed over all bytes before it, the time stamped, the ACK debt paid, and its first byte returned. -/
def Obligations.TxByteStartsData : Prop :=
  ∀ s : State, Inv Config.params s → s.txSrc = .idle → s.txDue = true →
    ∃ t, exec .txByte s = .next t
      ∧ t = { s with
              sendBuf := t.sendBuf
              txSrc := .data
              txIdx := 1#8
              txDue := false
              txSent := true
              lastSend := s.nowReg
              ackOwed := false
              out := s.out ++ [memRead s.sendBuf 0] }
      ∧ memReadBytes t.sendBuf 0 s.sendLen.toNat =
          withChecksum Config.params
            (memRead s.sendBuf 0 :: seqByte s.seqCur s.seqLastSeen :: memReadBytes s.sendBuf 2 (s.sendLen.toNat - 3))
      ∧ ∀ j, j ≠ 1 → j ≠ s.sendLen.toNat - 1 → memRead t.sendBuf j = memRead s.sendBuf j

/-- R88, R67: with no data frame due, an owed ACK starts an ACK frame: OWN 0, ACKN the number last seen. -/
def Obligations.TxByteStartsAck : Prop :=
  ∀ s : State, Inv Config.params s → s.txSrc = .idle → s.txDue = false → s.ackOwed = true →
    ∃ t, exec .txByte s = .next t
      ∧ t = { s with
              ackBuf := t.ackBuf
              txSrc := .ack
              txIdx := 1#8
              ackOwed := false
              out := s.out ++ [0x03#8] }
      ∧ memReadBytes t.ackBuf 0 3 =
          [0x03#8, seqByte 0#4 s.seqLastSeen, Config.params.cs [0x03#8, seqByte 0#4 s.seqLastSeen]]
      ∧ ∀ j, 3 ≤ j → memRead t.ackBuf j = memRead s.ackBuf j

/-- R88, R81: inside a frame TX_BYTE returns the byte at tx_idx and moves on; after the last byte the boundary is reached,
and a data frame whose ACK came meanwhile is released. -/
def Obligations.TxByteContinuesFrame : Prop :=
  ∀ s : State, Inv Config.params s →
    (s.txSrc = .data →
      exec .txByte s = .next
        (if s.txIdx.toNat + 1 ≠ s.sendLen.toNat then
          { s with txIdx := s.txIdx + 1#8, out := s.out ++ [memRead s.sendBuf s.txIdx.toNat] }
        else if s.txRel = false then
          { s with txSrc := .idle, txIdx := 0#8, out := s.out ++ [memRead s.sendBuf s.txIdx.toNat] }
        else
          { s with
            txSrc := .idle
            txIdx := 0#8
            sendLen := 0#8
            txSent := false
            txDue := false
            txRel := false
            seqCur := nextSeq s.seqCur
            out := s.out ++ [memRead s.sendBuf s.txIdx.toNat] }))
    ∧ (s.txSrc = .ack →
      exec .txByte s = .next
        (if s.txIdx.toNat + 1 ≠ 3 then
          { s with txIdx := s.txIdx + 1#8, out := s.out ++ [memRead s.ackBuf s.txIdx.toNat] }
        else { s with txSrc := .idle, txIdx := 0#8, out := s.out ++ [memRead s.ackBuf s.txIdx.toNat] }))

/-- R88, R42, R54: as many TX_BYTEs as a due frame is long emit exactly that frame, with the current numbers and a fresh
checksum, and leave the block at a frame boundary waiting for the ACK. -/
def Obligations.DueFrameIsEmittedWhole : Prop :=
  ∀ s : State, Inv Config.params s → s.txSrc = .idle → s.txDue = true →
    ∃ t, execAll (asmTx s.sendLen.toNat) s = .next t
      ∧ t.out = s.out ++ withChecksum Config.params
          (memRead s.sendBuf 0 :: seqByte s.seqCur s.seqLastSeen :: memReadBytes s.sendBuf 2 (s.sendLen.toNat - 3))
      ∧ t = { s with
              sendBuf := t.sendBuf
              txDue := false
              txSent := true
              lastSend := s.nowReg
              ackOwed := false
              out := t.out }

/-! ## SUBMIT, DRAIN -/

/-- R85, R111: SUBMIT checks the length first (LENGTH), then whether a message is in flight (BUSY), and otherwise takes the
payload into the transmit mailbox and counts it. -/
def Obligations.SubmitRule : Prop :=
  ∀ (p : List Byte) (s : State), Inv Config.params s →
    if p.length < Config.params.minMsgLen ∨ Config.params.maxMsgLen < p.length then
      exec (.submit p) s = .next { s with out := s.out ++ [2#8], events := s.events ++ [.submitLengthError] }
    else if s.slotTxLen ≠ 0#8 ∨ s.sendLen ≠ 0#8 then
      exec (.submit p) s = .next { s with out := s.out ++ [1#8], events := s.events ++ [.busyError] }
    else
      ∃ t, exec (.submit p) s = .next t
        ∧ t = { s with
                slotTx := t.slotTx
                slotTxLen := BitVec.ofNat 8 p.length
                msgFromBrick := satInc s.msgFromBrick
                out := s.out ++ [0#8] }
        ∧ t.slotTxLen.toNat = p.length
        ∧ memReadBytes t.slotTx 0 p.length = p
        ∧ ∀ j, p.length ≤ j → memRead t.slotTx j = memRead s.slotTx j

/-- R85, R86, R88, R54: a message submitted to a quiet block, after one TICK, leaves the block as the data frame of R54 with
the current sequence numbers; the block then waits for its ACK. -/
def Obligations.SubmittedMessageIsTransmitted : Prop :=
  ∀ (p : List Byte) (now : Word) (s : State), Inv Config.params s → RingIdle s → s.txSrc = .idle →
    s.slotTxLen = 0#8 → s.sendLen = 0#8 →
    Config.params.minMsgLen ≤ p.length → p.length ≤ Config.params.maxMsgLen →
    ∃ t, execAll (.submit p :: .tick now :: asmTx (p.length + 3)) s = .next t
      ∧ t.out = s.out ++ 0#8 :: withChecksum Config.params
          (BitVec.ofNat 8 (p.length + 3) :: seqByte s.seqCur s.seqLastSeen :: p)
      ∧ t.sendLen.toNat = p.length + 3 ∧ t.slotTxLen = 0#8
      ∧ t.txSrc = .idle ∧ t.txSent = true ∧ t.txDue = false ∧ t.ackOwed = false
      ∧ t.seqCur = s.seqCur ∧ t.lastSend = now

/-- R104: DRAIN returns the waiting payload and empties the mailbox; an empty mailbox gives `[0]`. Nothing else changes,
but that any value may stand where the payload stood (log 10: free values). -/
def Obligations.DrainRule : Prop :=
  ∀ s : State, Inv Config.params s →
    (s.slotRxLen = 0#8 → exec .drain s = .next { s with out := s.out ++ [0#8] })
    ∧ (s.slotRxLen ≠ 0#8 →
        ∃ t, exec .drain s = .next t
          ∧ t = { s with
                  slotRx := t.slotRx
                  slotRxLen := 0#8
                  staleUsed := t.staleUsed
                  out := s.out ++ s.slotRxLen :: memReadBytes s.slotRx 0 s.slotRxLen.toNat }
          ∧ ∀ j, s.slotRxLen.toNat ≤ j → memRead t.slotRx j = memRead s.slotRx j)

/-- R101, R92 to R94, R63, R38: READ_REG, the baud commands and an unassigned opcode store nothing in any storage area. -/
def Obligations.QuietCommandsStoreNothing : Prop :=
  ∀ (i : Instr) (s t : State),
    ((∃ r, i = .readReg r) ∨ (∃ v, i = .setBaud v) ∨ (∃ en m, i = .setDynConfig en m)
      ∨ (∃ v, i = .proposeBaud v) ∨ ∃ op, i = .invalid op) →
    exec i s = .next t → ∀ (a : Area) (j : Nat), memRead (areaMem t a) j = memRead (areaMem s a) j

/-- R90, R86, R81, R88, R80: while a message is in flight, every operation but RESET leaves both lengths as they are; or it
is a TICK that frames the message, which moves its length on to the send buffer; or it releases a frame already sent, and
the sequence number moves on. A release has its ACK: the last TX_BYTE of the frame finds `tx_rel` set, and an operation that
scans finds, among the bytes it has before it, a valid frame that acknowledges this number. -/
def Obligations.OnlyReleaseOrResetEndsAMessage : Prop :=
  ∀ (i : Instr) (s t : State), Inv Config.params s → InFlight s → i ≠ .reset → exec i s = .next t →
    (t.slotTxLen = s.slotTxLen ∧ t.sendLen = s.sendLen)
    ∨ ((∃ now, i = .tick now) ∧ s.slotTxLen ≠ 0#8 ∧ s.sendLen = 0#8
        ∧ t.slotTxLen = 0#8 ∧ t.sendLen.toNat = s.slotTxLen.toNat + 3)
    ∨ (s.sendLen ≠ 0#8 ∧ s.txSent = true ∧ t.sendLen = 0#8 ∧ t.slotTxLen = 0#8 ∧ t.seqCur = nextSeq s.seqCur
        ∧ ((i = .txByte ∧ s.txSrc = .data ∧ s.txRel = true ∧ s.txIdx.toNat + 1 = s.sendLen.toNat)
          ∨ (s.txSrc ≠ .data ∧ AckStandsIn Config.params s.seqCur (scannedBytes Config.params i s))))

/-! ## Registers and baud rates -/

/-- R30 to R33, R101: READ_REG of an assigned register returns OK and its value and changes nothing; of any other it returns
INVALID and 0. STATUS (with the codes of R18 and R22), SEQ and LENGTHS field by field. (RB_USED for a count that 32 bits hold.) -/
def Obligations.ReadRegMap : Prop :=
  ∀ (r : Byte) (s : State),
    (0x11 < r.toNat → exec (.readReg r) s = .next
      { s with out := s.out ++ [3#8, 0#8, 0#8, 0#8, 0#8], events := s.events ++ [.invalidCommand] })
    ∧ (r.toNat ≤ 0x11 → ∃ v : Word,
        exec (.readReg r) s = .next { s with out := s.out ++ 0#8 :: wordBytes v }
        ∧ (r = 0x00#8 →
            v.getLsbD 0 = decide (s.slotRxLen ≠ 0#8)
            ∧ v.getLsbD 1 = decide (s.slotTxLen ≠ 0#8 ∨ s.sendLen ≠ 0#8)
            ∧ v.getLsbD 2 = decide (s.sendLen ≠ 0#8)
            ∧ v.getLsbD 3 = s.ackOwed
            ∧ v.getLsbD 4 = s.baudChange
            ∧ (s.rxState = .seeking → v.extractLsb' 5 2 = 0#2)
            ∧ (s.rxState = .accumulating → v.extractLsb' 5 2 = 1#2)
            ∧ (s.rxState = .frameComplete → v.extractLsb' 5 2 = 2#2)
            ∧ (s.txSrc = .idle → v.extractLsb' 7 2 = 0#2)
            ∧ (s.txSrc = .data → v.extractLsb' 7 2 = 1#2)
            ∧ (s.txSrc = .ack → v.extractLsb' 7 2 = 2#2)
            ∧ v.getLsbD 9 = s.txSent
            ∧ v.getLsbD 10 = s.txDue
            ∧ v.getLsbD 11 = s.txRel
            ∧ v.getLsbD 12 = decide (Config.params.zeroRunIdle ≤ s.zeroRun.toNat)
            ∧ v.extractLsb' 13 19 = 0#19)
        ∧ (r = 0x01#8 →
            v.extractLsb' 0 4 = s.seqCur ∧ v.extractLsb' 4 4 = s.seqLastSeen ∧ v.extractLsb' 8 8 = s.txIdx
            ∧ v.extractLsb' 16 16 = 0#16)
        ∧ (r = 0x02#8 → v = s.errAckChecksum)
        ∧ (r = 0x03#8 → v = s.errFrame)
        ∧ (r = 0x04#8 → v = s.errMsgChecksum)
        ∧ (r = 0x05#8 → v = s.errOverflow)
        ∧ (r = 0x06#8 → v = s.msgFromBrick)
        ∧ (r = 0x07#8 → v = s.msgFromBricklet)
        ∧ (r = 0x08#8 → v = s.baudCfg)
        ∧ (r = 0x09#8 → v = s.baudCurrent)
        ∧ (r = 0x0A#8 → v = s.baudNew)
        ∧ (r = 0x0B#8 → v = if s.dynEnable then 1#32 else 0#32)
        ∧ (r = 0x0C#8 → v = s.dynMin)
        ∧ (r = 0x0D#8 → v = s.zeroRun)
        ∧ (r = 0x0E#8 → v = s.lastSend)
        ∧ (r = 0x0F#8 →
            v.extractLsb' 0 8 = s.sendLen ∧ v.extractLsb' 8 8 = s.slotTxLen ∧ v.extractLsb' 16 8 = s.slotRxLen
            ∧ v.extractLsb' 24 8 = s.rxLen)
        ∧ (r = 0x10#8 → s.rbUsed < 2 ^ 32 → v.toNat = s.rbUsed)
        ∧ (r = 0x11#8 → v = s.nowReg))

/-- R92, R91: SET_BAUD stores the clamped rate; in fixed mode it becomes the pending rate. -/
def Obligations.SetBaudRule : Prop :=
  ∀ (v c : Word) (s : State), c.toNat = min (max v.toNat 400000) 2000000 →
    exec (.setBaud v) s = .next
      (if s.dynEnable then { s with baudCfg := c, out := s.out ++ [0#8] }
       else { s with baudCfg := c, baudNew := c, baudChange := true, out := s.out ++ [0#8] })

/-- R93, R91: SET_DYN_CONFIG stores the mode (any nonzero `en` is on) and the clamped floor; turned off, the fixed rate
becomes the pending rate. -/
def Obligations.SetDynConfigRule : Prop :=
  ∀ (en : Byte) (min' c : Word) (s : State), c.toNat = min (max min'.toNat 400000) 2000000 →
    exec (.setDynConfig en min') s = .next
      (if en ≠ 0#8 then { s with dynEnable := true, dynMin := c, out := s.out ++ [0#8] }
       else
        { s with
          dynEnable := false
          dynMin := c
          baudNew := s.baudCfg
          baudChange := true
          out := s.out ++ [0#8] })

/-- R94, R91: PROPOSE_BAUD in fixed mode is IGNORED; in dynamic mode the clamped rate, not below the floor, becomes the
pending rate. -/
def Obligations.ProposeBaudRule : Prop :=
  ∀ (v c : Word) (s : State), c.toNat = max (min (max v.toNat 400000) 2000000) s.dynMin.toNat →
    exec (.proposeBaud v) s = .next
      (if s.dynEnable then { s with baudNew := c, baudChange := true, out := s.out ++ [0#8] }
       else { s with out := s.out ++ [4#8], events := s.events ++ [.proposalIgnored] })

/-- R96: no operation but RESET changes baud_current while a frame is partly transmitted. -/
def Obligations.BaudCurrentHeldMidFrame : Prop :=
  ∀ (i : Instr) (s t : State), s.txSrc ≠ .idle → i ≠ .reset → exec i s = .next t → t.baudCurrent = s.baudCurrent

/-! ## TICK -/

/-- R86, R102: a TICK whose SCAN leaves a message in the mailbox and an empty send buffer frames the message, with the
numbers of that moment, makes it due and releases the mailbox (any value may stand where the payload stood, log 10); then
BAUD_APPLY (R95). -/
def Obligations.TickFramesMessage : Prop :=
  ∀ (now : Word) (s u : State), Inv Config.params s → scan Config.params { s with nowReg := now } = .ok u →
    u.sendLen = 0#8 → u.slotTxLen ≠ 0#8 →
    ∃ t, exec (.tick now) s = .next t
      ∧ t = { u with
              sendBuf := t.sendBuf
              slotTx := t.slotTx
              staleUsed := t.staleUsed
              sendLen := u.slotTxLen + 3#8
              slotTxLen := 0#8
              txSent := false
              txRel := false
              txDue := true
              baudCurrent := if u.baudChange = true ∧ u.txSrc = .idle then u.baudNew else u.baudCurrent
              baudChange := if u.txSrc = .idle then false else u.baudChange }
      ∧ t.sendLen.toNat = u.slotTxLen.toNat + 3
      ∧ memReadBytes t.sendBuf 0 (u.slotTxLen.toNat + 3) =
          withChecksum Config.params (BitVec.ofNat 8 (u.slotTxLen.toNat + 3) :: seqByte u.seqCur u.seqLastSeen
            :: memReadBytes u.slotTx 0 u.slotTxLen.toNat)
      ∧ (∀ j, u.slotTxLen.toNat + 3 ≤ j → memRead t.sendBuf j = memRead u.sendBuf j)
      ∧ ∀ j, u.slotTxLen.toNat ≤ j → memRead t.slotTx j = memRead u.slotTx j

/-- R87, R102: a TICK that frames nothing runs the retransmission timer: the frame is due again exactly when it has been sent,
is not due, is not being sent, and TX_TIMEOUT_MS have passed modulo 2^32 since its last start; then BAUD_APPLY (R95). -/
def Obligations.TickRunsTimer : Prop :=
  ∀ (now : Word) (s u : State), Inv Config.params s → scan Config.params { s with nowReg := now } = .ok u →
    ¬(u.sendLen = 0#8 ∧ u.slotTxLen ≠ 0#8) →
    exec (.tick now) s = .next
      { u with
        txDue := u.txDue || decide (u.sendLen ≠ 0#8 ∧ u.txSent = true ∧ u.txSrc ≠ .data
          ∧ Config.params.txTimeoutMs ≤ (now.toNat + 2 ^ 32 - u.lastSend.toNat) % 2 ^ 32)
        baudCurrent := if u.baudChange = true ∧ u.txSrc = .idle then u.baudNew else u.baudCurrent
        baudChange := if u.txSrc = .idle then false else u.baudChange }

/-- R95, R102: a TICK applies a pending rate exactly when no frame is partly transmitted, and changes no other rate. -/
def Obligations.TickAppliesBaud : Prop :=
  ∀ (now : Word) (s t : State), exec (.tick now) s = .next t →
    t.txSrc = s.txSrc ∧ t.baudNew = s.baudNew ∧ t.baudCfg = s.baudCfg ∧ t.dynMin = s.dynMin
    ∧ t.dynEnable = s.dynEnable
    ∧ (if s.baudChange = true ∧ s.txSrc = .idle then t.baudCurrent = s.baudNew ∧ t.baudChange = false
       else t.baudCurrent = s.baudCurrent ∧ t.baudChange = s.baudChange)

/-- R103: a second TICK with the same `now` changes no state. -/
def Obligations.SecondTickChangesNothing : Prop :=
  ∀ (now : Word) (s t : State), Inv Config.params s → exec (.tick now) s = .next t → exec (.tick now) t = .next t

/-- R73, R102: a TICK ends with nothing left to scan: the ring empty, a candidate too short, or a data frame with a valid
checksum and a new number waiting for the full mailbox. It latches its clock and emits nothing. -/
def Obligations.TickScansToTheEnd : Prop :=
  ∀ (now : Word) (s t : State), Inv Config.params s → exec (.tick now) s = .next t →
    ScanQuiescent t ∧ StalledFrameValid Config.params t ∧ t.nowReg = now ∧ t.out = s.out ∧ t.cmdIn = s.cmdIn

/-- What a TICK stores (R45, R49, R38): nothing in the ring's bytes, nothing in `ack_buf`; in `slot_tx` only where
the payload it frames stood (any value may stand there, log 10); in `slot_rx` only the payload it delivers; in `send_buf`
only the frame it makes; in `scratch` only candidate bytes. -/
def Obligations.TickStoresOnlyItsFrames : Prop :=
  ∀ (now : Word) (s t : State), Inv Config.params s → exec (.tick now) s = .next t →
    t.rb = s.rb ∧ t.ackBuf = s.ackBuf
    ∧ (∀ j, s.slotTxLen.toNat ≤ j → memRead t.slotTx j = memRead s.slotTx j)
    ∧ (∀ j, (s.slotRxLen ≠ 0#8 ∨ t.slotRxLen.toNat ≤ j) → memRead t.slotRx j = memRead s.slotRx j)
    ∧ (∀ j, (s.slotTxLen = 0#8 ∨ t.sendLen.toNat ≤ j) → memRead t.sendBuf j = memRead s.sendBuf j)
    ∧ (∀ j, Config.params.maxFrameLen ≤ j → memRead t.scratch j = memRead s.scratch j)

/-! ## RESET and the unassigned opcodes -/

/-- R35, R105, R123: at power-up and after RESET in any state every field has its reset value. -/
def Obligations.ResetValues : Prop :=
  AtReset Config.params State.reset ∧ ∀ s : State, ∃ t, exec .reset s = .next t ∧ AtReset Config.params t

/-- The model's choices about reset (log 2, log 3, log 10): every byte of every area reads 0 afterwards; the command stream,
what was emitted and the used free values stay. -/
def Obligations.ResetLeavesTheStream : Prop :=
  ∀ s : State, ∃ t, exec .reset s = .next t
    ∧ t.cmdIn = s.cmdIn ∧ t.out = s.out ∧ t.events = s.events ∧ t.staleUsed = s.staleUsed
    ∧ ∀ a j, memRead (areaMem t a) j = 0#8 ∧ memRead (areaMem State.reset a) j = 0#8

/-- R63, R62: an unassigned opcode has no operands, changes no state and answers INVALID. -/
def Obligations.UnassignedOpcode : Prop :=
  ∀ op : Byte, (op.toNat = 0 ∨ 0x0B ≤ op.toNat) →
    (∀ rest, decodeCommand (op :: rest) = .ok (.invalid op, rest))
    ∧ ∀ s : State, exec (.invalid op) s = .next
        { s with out := s.out ++ [0x03#8], events := s.events ++ [.invalidCommand] }

/-- R79: the next sequence number is (s mod 15) + 1, is never 0 and never s. -/
def Obligations.NextSequenceNumber : Prop :=
  ∀ n : Nibble, (nextSeq n).toNat = n.toNat % 15 + 1 ∧ nextSeq n ≠ 0#4 ∧ nextSeq n ≠ n

/-! ## The wire (receipt of one unit by a scanner at rest) -/

/-- R56, R74: an idle byte at the frame-start position is consumed and counted in zero_run, and nothing else. -/
def Obligations.IdleByteIsCounted : Prop :=
  ∀ s : State, Inv Config.params s → RingIdle s →
    ∃ t, exec .wIdle s = .next t
      ∧ t = { s with
              rb := t.rb
              rbHead := (s.rbHead + 1) % Config.params.rbSize
              zeroRun := satInc s.zeroRun }
      ∧ ∀ j, j ≠ rbOffset Config.params s 0 → memRead t.rb j = memRead s.rb j

/-- R57, R59, R74: a byte that is no frame's length is dropped and counted as a frame error, and nothing else. -/
def Obligations.BadLengthIsCounted : Prop :=
  ∀ (len : Byte) (s : State), Inv Config.params s → RingIdle s → Instr.wf Config.params (.wBadlen len) = true →
    ∃ t, exec (.wBadlen len) s = .next t
      ∧ t = { s with
              rb := t.rb
              rbHead := (s.rbHead + 1) % Config.params.rbSize
              errFrame := satInc s.errFrame
              events := s.events ++ [.frameErrorBadlen] }
      ∧ ∀ j, j ≠ rbOffset Config.params s 0 → memRead t.rb j = memRead s.rb j

/-- R55, R75, R76, R80, R81: an ACK frame with a valid checksum is consumed whatever its OWN nibble; it ends the zero run;
it releases the frame it acknowledges, or marks the release while that frame is being sent; otherwise it is ignored. -/
def Obligations.AckFrameIsHonoured : Prop :=
  ∀ (own ackn : Nibble) (s : State), Inv Config.params s → RingIdle s →
    ∃ t, exec (.wAck own ackn (Config.params.cs [0x03#8, seqByte own ackn])) s = .next t
      ∧ t = { (if s.sendLen ≠ 0#8 ∧ s.txSent = true ∧ ackn = s.seqCur then
                if s.txSrc = .data then { s with txRel := true }
                else
                  { s with
                    sendLen := 0#8
                    txSent := false
                    txDue := false
                    txRel := false
                    seqCur := nextSeq s.seqCur }
               else s) with
              rb := t.rb
              scratch := t.scratch
              rbHead := (s.rbHead + 3) % Config.params.rbSize
              zeroRun := 0#32 }
      ∧ (∀ j, (∀ k, k < 3 → j ≠ rbOffset Config.params s k) → memRead t.rb j = memRead s.rb j)
      ∧ ∀ j, 3 ≤ j → memRead t.scratch j = memRead s.scratch j

/-- R75, R59, R73: an ACK frame with a wrong checksum counts one ChecksumError(ACK) and acknowledges nothing: only its length
byte is dropped (the state `u`), and SCAN goes on with the two others as possible frame starts. -/
def Obligations.CorruptAckIsCounted : Prop :=
  ∀ (own ackn : Nibble) (chk : Byte) (s : State), Inv Config.params s → RingIdle s →
    chk ≠ Config.params.cs [0x03#8, seqByte own ackn] →
    ∃ u t, exec (.wAck own ackn chk) s = .next t
      ∧ scan Config.params u = .ok t
      ∧ u = { s with
              rb := u.rb
              scratch := u.scratch
              rbHead := (s.rbHead + 1) % Config.params.rbSize
              rbUsed := 2
              errAckChecksum := satInc s.errAckChecksum
              events := s.events ++ [.checksumErrorAck] }
      ∧ unread Config.params u = [seqByte own ackn, chk]
      ∧ (∀ j, (∀ k, k < 3 → j ≠ rbOffset Config.params s k) → memRead u.rb j = memRead s.rb j)
      ∧ (∀ j, 3 ≤ j → memRead u.scratch j = memRead s.scratch j)
      ∧ t = { s with
              rb := u.rb
              rbHead := t.rbHead
              rbUsed := t.rbUsed
              rxState := t.rxState
              rxLen := t.rxLen
              scratch := u.scratch
              zeroRun := t.zeroRun
              errAckChecksum := satInc s.errAckChecksum
              errFrame := t.errFrame
              events := t.events }

/-- R54, R75, R76, R82: a valid data frame with a new number, and the mailbox empty: its payload is delivered, its number
becomes the last seen, an ACK is owed, the message counted, its ACK nibble honoured first. -/
def Obligations.NewDataIsDelivered : Prop :=
  ∀ (own ackn : Nibble) (p : List Byte) (s : State), Inv Config.params s → RingIdle s →
    Config.params.minMsgLen ≤ p.length → p.length ≤ Config.params.maxMsgLen →
    own ≠ 0#4 → own ≠ s.seqLastSeen → s.slotRxLen = 0#8 →
    ∃ t, exec (.wData own ackn p
            (Config.params.cs (BitVec.ofNat 8 (p.length + 3) :: seqByte own ackn :: p))) s = .next t
      ∧ t = { inboundAck ackn s with
              rb := t.rb
              scratch := t.scratch
              slotRx := t.slotRx
              rbHead := (s.rbHead + (p.length + 3)) % Config.params.rbSize
              zeroRun := 0#32
              slotRxLen := BitVec.ofNat 8 p.length
              seqLastSeen := own
              ackOwed := true
              msgFromBricklet := satInc s.msgFromBricklet }
      ∧ t.slotRxLen.toNat = p.length
      ∧ memReadBytes t.slotRx 0 p.length = p
      ∧ (∀ j, p.length ≤ j → memRead t.slotRx j = memRead s.slotRx j)
      ∧ (∀ j, (∀ k, k < p.length + 3 → j ≠ rbOffset Config.params s k) → memRead t.rb j = memRead s.rb j)
      ∧ ∀ j, p.length + 3 ≤ j → memRead t.scratch j = memRead s.scratch j

/-- R82, R84, R110, R131 (a): a valid data frame with the number last seen is acknowledged again and not delivered, even when
the mailbox is full. -/
def Obligations.DuplicateIsAcknowledgedOnly : Prop :=
  ∀ (own ackn : Nibble) (p : List Byte) (s : State), Inv Config.params s → RingIdle s →
    Config.params.minMsgLen ≤ p.length → p.length ≤ Config.params.maxMsgLen →
    own ≠ 0#4 → own = s.seqLastSeen →
    ∃ t, exec (.wData own ackn p
            (Config.params.cs (BitVec.ofNat 8 (p.length + 3) :: seqByte own ackn :: p))) s = .next t
      ∧ t = { inboundAck ackn s with
              rb := t.rb
              scratch := t.scratch
              rbHead := (s.rbHead + (p.length + 3)) % Config.params.rbSize
              zeroRun := 0#32
              ackOwed := true }

/-- R59, R82: a valid data frame with the reserved number 0 is consumed and its ACK nibble honoured; its payload is not
delivered, no ACK is owed, and a frame error is counted. -/
def Obligations.ReservedNumberIsCounted : Prop :=
  ∀ (ackn : Nibble) (p : List Byte) (s : State), Inv Config.params s → RingIdle s →
    Config.params.minMsgLen ≤ p.length → p.length ≤ Config.params.maxMsgLen →
    ∃ t, exec (.wData 0#4 ackn p
            (Config.params.cs (BitVec.ofNat 8 (p.length + 3) :: seqByte 0#4 ackn :: p))) s = .next t
      ∧ t = { inboundAck ackn s with
              rb := t.rb
              scratch := t.scratch
              rbHead := (s.rbHead + (p.length + 3)) % Config.params.rbSize
              zeroRun := 0#32
              errFrame := satInc s.errFrame
              events := s.events ++ [.frameErrorSeq0] }

/-- R75, R127: a valid new data frame that the full mailbox cannot take stalls: it stays in the ring and nothing of it is
processed, not even its ACK nibble. -/
def Obligations.FullMailboxStallsNewData : Prop :=
  ∀ (own ackn : Nibble) (p : List Byte) (s : State), Inv Config.params s → RingIdle s →
    Config.params.minMsgLen ≤ p.length → p.length ≤ Config.params.maxMsgLen →
    own ≠ 0#4 → own ≠ s.seqLastSeen → s.slotRxLen ≠ 0#8 →
    ∃ t, exec (.wData own ackn p
            (Config.params.cs (BitVec.ofNat 8 (p.length + 3) :: seqByte own ackn :: p))) s = .next t
      ∧ t = { s with
              rb := t.rb
              scratch := t.scratch
              rbUsed := p.length + 3
              rxState := .frameComplete
              rxLen := BitVec.ofNat 8 (p.length + 3) }
      ∧ unread Config.params t = encode (.wData own ackn p
          (Config.params.cs (BitVec.ofNat 8 (p.length + 3) :: seqByte own ackn :: p)))

/-- R75, R98, R73: a data frame with a wrong checksum counts one ChecksumError(DATA): only its length byte is dropped (the
state `u`), nothing of it is delivered or acknowledged there, and SCAN goes on with its other bytes as possible frame starts,
counting what they give after it. -/
def Obligations.CorruptDataIsCounted : Prop :=
  ∀ (own ackn : Nibble) (p : List Byte) (chk : Byte) (s : State), Inv Config.params s → RingIdle s →
    Config.params.minMsgLen ≤ p.length → p.length ≤ Config.params.maxMsgLen →
    chk ≠ Config.params.cs (BitVec.ofNat 8 (p.length + 3) :: seqByte own ackn :: p) →
    ∃ u t es, exec (.wData own ackn p chk) s = .next t
      ∧ scan Config.params u = .ok t
      ∧ u = { s with
              rb := u.rb
              scratch := u.scratch
              rbHead := (s.rbHead + 1) % Config.params.rbSize
              rbUsed := p.length + 2
              errMsgChecksum := satInc s.errMsgChecksum
              events := s.events ++ [.checksumErrorData] }
      ∧ unread Config.params u = seqByte own ackn :: (p ++ [chk])
      ∧ (∀ j, (∀ k, k < p.length + 3 → j ≠ rbOffset Config.params s k) → memRead u.rb j = memRead s.rb j)
      ∧ (∀ j, p.length + 3 ≤ j → memRead u.scratch j = memRead s.scratch j)
      ∧ CountsEvents s t (.checksumErrorData :: es)

/-- R83, R84, R88: a frame received, the mailbox drained, and the same frame received again (its ACK nibble may be fresh): the
payload is delivered once. When the line is free, three TX_BYTEs between the copies send the first one's ACK and no ACK is
owed any more; the second copy, not delivered, makes one owed again. -/
def Obligations.RetransmissionNotDeliveredTwice : Prop :=
  ∀ (own ackn ackn' : Nibble) (p : List Byte) (s : State), Inv Config.params s → RingIdle s →
    Config.params.minMsgLen ≤ p.length → p.length ≤ Config.params.maxMsgLen →
    own ≠ 0#4 → own ≠ s.seqLastSeen → s.slotRxLen = 0#8 →
    (∃ t, execAll
        [.wData own ackn p (Config.params.cs (BitVec.ofNat 8 (p.length + 3) :: seqByte own ackn :: p)), .drain,
         .wData own ackn' p (Config.params.cs (BitVec.ofNat 8 (p.length + 3) :: seqByte own ackn' :: p))] s = .next t
      ∧ t.out = s.out ++ BitVec.ofNat 8 p.length :: p
      ∧ t.slotRxLen = 0#8 ∧ t.msgFromBricklet = satInc s.msgFromBricklet ∧ t.seqLastSeen = own ∧ t.ackOwed = true)
    ∧ (s.txSrc = .idle → s.txDue = false →
      ∃ u t, execAll
          (.wData own ackn p (Config.params.cs (BitVec.ofNat 8 (p.length + 3) :: seqByte own ackn :: p)) :: .drain
            :: asmTx 3) s = .next u
        ∧ u.out = s.out ++ (BitVec.ofNat 8 p.length :: p) ++ withChecksum Config.params [0x03#8, seqByte 0#4 own]
        ∧ u.ackOwed = false ∧ u.txSrc = .idle
        ∧ exec (.wData own ackn' p (Config.params.cs (BitVec.ofNat 8 (p.length + 3) :: seqByte own ackn' :: p))) u
            = .next t
        ∧ t.ackOwed = true ∧ t.out = u.out ∧ t.slotRxLen = 0#8
        ∧ t.msgFromBricklet = satInc s.msgFromBricklet ∧ t.seqLastSeen = own)

/-- How a wire unit reaches a run (log 4; R64, R72, R102): its bytes strobed in by RX_BYTE, then a TICK, do what its receipt
does at that clock, and then the rest of the TICK. -/
def Obligations.WireUnitArrivesThroughTick : Prop :=
  ∀ (u : Instr) (now : Word) (s : State), u.isWire = true →
    execAll (asmRx (encode u) ++ [.tick now]) s =
      match exec u { s with nowReg := now } with
      | .next t => runOutcome ((frameOrTimer Config.params t).map baudApply)
      | .fault f => .fault f
      | .refused r => .refused r

/-- R77, with every garbage byte of class BADLEN (the source's scenario E8): a valid new frame, garbage, a second valid frame
with another number, all received before one TICK: each payload is delivered once, in order, with a DRAIN and a TICK between
them, and each garbage byte counts one frame error. For every parameter set whose ring holds all the bytes; with the
machine's own parameters it is the run of these operations. -/
def Obligations.ResynchronizesAfterGarbage : Prop :=
  ∀ (P : Params) (own1 own2 ackn1 ackn2 : Nibble) (p1 p2 garbage : List Byte) (now1 now2 : Word) (s : State),
    Inv P s → RingIdle s → s.slotRxLen = 0#8 →
    P.minMsgLen ≤ p1.length → p1.length ≤ P.maxMsgLen → P.minMsgLen ≤ p2.length → p2.length ≤ P.maxMsgLen →
    own1 ≠ 0#4 → own1 ≠ s.seqLastSeen → own2 ≠ 0#4 → own2 ≠ own1 →
    (∀ g ∈ garbage, lenClass P g = .badlen) →
    p1.length + 3 + garbage.length + (p2.length + 3) ≤ P.rbSize →
    ∃ t,
      (do
        let s ← tickWith P now1 (rbPushBytes P
          (withChecksum P (dataBody p1 own1 ackn1) ++ garbage ++ withChecksum P (dataBody p2 own2 ackn2)) s)
        let s ← drainWith P s
        let s ← tickWith P now2 s
        drainWith P s) = .ok t
      ∧ (P = Config.params →
          execAll (asmRxData P own1 ackn1 p1 ++ asmRx garbage ++ asmRxData P own2 ackn2 p2
            ++ [.tick now1, .drain, .tick now2, .drain]) s = .next t)
      ∧ t.out = s.out ++ (BitVec.ofNat 8 p1.length :: p1) ++ (BitVec.ofNat 8 p2.length :: p2)
      ∧ t.errFrame = satInc^[garbage.length] s.errFrame
      ∧ t.seqLastSeen = own2 ∧ t.ackOwed = true ∧ t.rbUsed = 0 ∧ t.rxState = .seeking

/-! ## Whole-machine rules -/

/-- R36, R28, R38: the invariant is kept by every instruction and by every step. -/
def Obligations.EveryStepKeepsTheInvariant : Prop :=
  (∀ (i : Instr) (s t : State), Inv Config.params s → exec i s = .next t → Inv Config.params t)
  ∧ ∀ s t : State, Inv Config.params s → step s = .next t → Inv Config.params t

/-- R124, R36: the reset state meets R36 as the spec words it, all twelve items, and so the invariant. -/
def Obligations.ResetMeetsTheInvariant : Prop :=
  R36 Config.params State.reset

/-- R36 item 11: while the scanner stands in FRAME_COMPLETE the candidate in the ring stays a valid new data frame, whatever
happens between TICKs. -/
def Obligations.StalledFrameStaysValid : Prop :=
  ∀ (i : Instr) (s t : State), Inv Config.params s → StalledFrameValid Config.params s → exec i s = .next t →
    StalledFrameValid Config.params t

/-- R36 item 10 as the spec words it, "after every operation", with its last clause `rb_used < rx_len`. It does NOT hold:
RX_BYTE (R72) brings the candidate's last byte without scanning (log 6). -/
def Obligations.AccumulatingCandidateStaysShort : Prop :=
  ∀ (i : Instr) (s t : State), Inv Config.params s →
    (s.rxState = .accumulating → s.rbUsed < s.rxLen.toNat) → exec i s = .next t →
    t.rxState = .accumulating → t.rbUsed < t.rxLen.toNat

/-- R36 item 11 as the spec words it, "after every operation", with its clause `slot_rx_len ≠ 0`. It does NOT hold: DRAIN
(R104) empties the mailbox without scanning (log 6). -/
def Obligations.StalledFrameKeepsMailboxFull : Prop :=
  ∀ (i : Instr) (s t : State), Inv Config.params s →
    (s.rxState = .frameComplete → s.slotRxLen ≠ 0#8) → exec i s = .next t →
    t.rxState = .frameComplete → t.slotRxLen ≠ 0#8

/-- R107, R108, R39, R66: no operation blocks, faults or is refused: from every state of the invariant each instruction
answers a next state, and a step can only stop on a stream that ends inside a command. -/
def Obligations.EveryOperationCompletes : Prop :=
  (∀ (i : Instr) (s : State), Inv Config.params s → ∃ t, exec i s = .next t)
  ∧ ∀ s : State, Inv Config.params s →
      (∃ t, step s = .next t) ∨ ∃ m, decodeCommand s.cmdIn = .error (.truncated m) ∧ step s = .refused (.truncatedCommand m)

/-- R100: between two RESETs no counter decreases. -/
def Obligations.CountersNeverDecrease : Prop :=
  ∀ (i : Instr) (s t : State), i ≠ .reset → exec i s = .next t →
    s.errAckChecksum ≤ t.errAckChecksum ∧ s.errFrame ≤ t.errFrame ∧ s.errMsgChecksum ≤ t.errMsgChecksum
    ∧ s.errOverflow ≤ t.errOverflow ∧ s.msgFromBrick ≤ t.msgFromBrick ∧ s.msgFromBricklet ≤ t.msgFromBricklet

/-- R97, R98, R109: sat_inc is one more, except that the greatest value stays; and every error counter counts through it
exactly its own events, one by one, whatever the operation (but RESET). -/
def Obligations.ErrorCountersCountTheirEvents : Prop :=
  (∀ c : Word, (satInc c).toNat = min (c.toNat + 1) 0xFFFFFFFF)
  ∧ ∀ (i : Instr) (s t : State), i ≠ .reset → exec i s = .next t → ∃ es, CountsEvents s t es

/-- R99: msg_from_brick counts exactly when the transmit mailbox is filled, msg_from_bricklet exactly when the receive mailbox
is, one at a time. -/
def Obligations.MessageCountersCountMailboxes : Prop :=
  ∀ (i : Instr) (s t : State), Inv Config.params s → i ≠ .reset → exec i s = .next t →
    t.msgFromBrick = (if s.slotTxLen = 0#8 ∧ t.slotTxLen ≠ 0#8 then satInc s.msgFromBrick else s.msgFromBrick)
    ∧ t.msgFromBricklet =
        (if s.slotRxLen = 0#8 ∧ t.slotRxLen ≠ 0#8 then satInc s.msgFromBricklet else s.msgFromBricklet)

/-- R36 as the spec words it, all twelve items, where the operations' own rules allow it (log 6). Every operation that scans
(TICK, and a wire unit's receipt) gives it back from any state of the invariant; and every operation keeps it, but for an
RX_BYTE that brings the candidate's last byte (R72: it never scans) and a DRAIN before a stalled frame (R104, R125: it stays
stalled until a TICK). -/
def Obligations.R36AsWordedIsKept : Prop :=
  (∀ (i : Instr) (s t : State), Inv Config.params s → (i.isWire = true ∨ ∃ now, i = .tick now) → exec i s = .next t →
    R36 Config.params t)
  ∧ ∀ (i : Instr) (s t : State), R36 Config.params s →
      ¬((∃ b, i = .rxByte b) ∧ s.rxState = .accumulating ∧ s.rbUsed + 1 = s.rxLen.toNat) →
      ¬(i = .drain ∧ s.rxState = .frameComplete) →
      exec i s = .next t → R36 Config.params t

/-- R7, R8, D6, D12: every parameter set is admissible, item by item. The machine's MIN_MSG_LEN is 1, and its RB_SIZE is the
default 1024 where none is given for the chip, and the chip's own where one is. -/
def Obligations.ParametersAreAdmissible : Prop :=
  (∀ P : Params,
    (∃ k, P.rbSize = 2 ^ k) ∧ P.maxFrameLen ≤ P.rbSize ∧ P.maxFrameLen = P.maxMsgLen + 3
    ∧ 1 ≤ P.minMsgLen ∧ P.minMsgLen ≤ P.maxMsgLen ∧ P.maxMsgLen ≤ 252
    ∧ 1 ≤ P.txTimeoutMs ∧ 1 ≤ P.zeroRunIdle
    ∧ (400000 ≤ P.baudReset.toNat ∧ P.baudReset.toNat ≤ 2000000)
    ∧ (400000 ≤ P.dynMinReset.toNat ∧ P.dynMinReset.toNat ≤ 2000000))
  ∧ Config.params.minMsgLen = 1
  ∧ Config.params.rbSize = if Config.rbSizeGiven then (@Config.chipParams ⟨testParams⟩).rbSize else 1024
end

