-- ==== Sys2Proof/Laws/Decode.lean ====
section
/-! SUPPORT. The small facts of both encodings: fields put together and taken apart, the length classes, and what the
command decoder's failures are. -/

namespace Sys2Proof

@[simp] theorem seqOwn_seqByte (own ackn : Nibble) : seqOwn (seqByte own ackn) = own := by
  revert own ackn; decide

@[simp] theorem seqAckn_seqByte (own ackn : Nibble) : seqAckn (seqByte own ackn) = ackn := by
  revert own ackn; decide

@[simp] theorem seqByte_eta (b : Byte) : seqByte (seqOwn b) (seqAckn b) = b := by
  revert b; decide

@[simp] theorem wordBytes_length (w : Word) : (wordBytes w).length = 4 := rfl

/-- The four bytes of a word, least significant first, give the word back (R43). -/
theorem wordOfBytes_wordBytes (w : Word) :
    wordOfBytes (w.extractLsb' 0 8) (w.extractLsb' 8 8) (w.extractLsb' 16 8) (w.extractLsb' 24 8) = w := by
  apply BitVec.eq_of_getLsbD_eq
  intro i hi
  simp only [wordOfBytes, BitVec.getLsbD_append, BitVec.getLsbD_extractLsb']
  by_cases h1 : i < 8
  · simp [h1]
  by_cases h2 : i < 16
  · simp [h1, show i - 8 < 8 by omega, show 8 + (i - 8) = i by omega]
  by_cases h3 : i < 24
  · simp [h1, show ¬ i - 8 < 8 by omega, show i - 8 - 8 < 8 by omega, show 16 + (i - 8 - 8) = i by omega]
  · simp [h1, show ¬ i - 8 < 8 by omega, show ¬ i - 8 - 8 < 8 by omega, show i - 8 - 8 - 8 < 8 by omega,
      show 24 + (i - 8 - 8 - 8) = i by omega]

/-- Any four bytes are the bytes of the word they make (R43). -/
theorem wordBytes_wordOfBytes (b0 b1 b2 b3 : Byte) : wordBytes (wordOfBytes b0 b1 b2 b3) = [b0, b1, b2, b3] := by
  have h : ∀ k (b : Byte), (∀ i, i < 8 → (wordOfBytes b0 b1 b2 b3).getLsbD (k + i) = b.getLsbD i) →
      (wordOfBytes b0 b1 b2 b3).extractLsb' k 8 = b := by
    intro k b h
    apply BitVec.eq_of_getLsbD_eq
    intro i hi
    rw [BitVec.getLsbD_extractLsb', h i hi]
    simp [hi]
  simp only [wordBytes, List.cons.injEq, and_true]
  refine ⟨h _ _ fun i hi => ?_, h _ _ fun i hi => ?_, h _ _ fun i hi => ?_, h _ _ fun i hi => ?_⟩ <;>
    simp only [wordOfBytes, BitVec.getLsbD_append]
  · simp [hi]
  · simp [hi]
  · simp [hi, show ¬ 16 + i < 8 by omega, show 16 + i - 8 = 8 + i by omega]
  · simp [show ¬ 24 + i < 8 by omega, show 24 + i - 8 = 16 + i by omega, show ¬ 16 + i < 8 by omega,
      show 16 + i - 8 = 8 + i by omega]

/-- Everything `len_class` can answer, each class with its range (R57). -/
theorem lenClass_cases (P : Params) (len : Byte) :
    (lenClass P len = .idle ∧ len = 0#8)
    ∨ (lenClass P len = .badlen ∧ (1 ≤ len.toNat ∧ len.toNat ≤ 2 ∨ 4 ≤ len.toNat ∧ len.toNat < 3 + P.minMsgLen
        ∨ P.maxMsgLen + 3 < len.toNat))
    ∨ (lenClass P len = .ack ∧ len = 3#8)
    ∨ (lenClass P len = .data ∧ 3 + P.minMsgLen ≤ len.toNat ∧ len.toNat ≤ P.maxMsgLen + 3) := by
  have h0 : len = 0#8 ↔ len.toNat = 0 := ⟨fun h => by simp [h], fun h => BitVec.eq_of_toNat_eq (by simpa using h)⟩
  have h3 : len = 3#8 ↔ len.toNat = 3 := ⟨fun h => by simp [h], fun h => BitVec.eq_of_toNat_eq (by simpa using h)⟩
  have := P.min_pos
  have := P.min_le_max
  unfold lenClass overhead Params.maxFrameLen overhead
  by_cases i0 : len = 0#8
  · exact .inl ⟨if_pos i0, i0⟩
  rw [if_neg i0]
  rw [h0] at i0
  by_cases i1 : len.toNat < 3
  · exact .inr (.inl ⟨if_pos i1, .inl (by omega)⟩)
  rw [if_neg i1]
  by_cases i2 : len.toNat = 3
  · exact .inr (.inr (.inl ⟨if_pos i2, h3.2 i2⟩))
  rw [if_neg i2]
  by_cases i3 : len.toNat < 3 + P.minMsgLen
  · exact .inr (.inl ⟨if_pos i3, .inr (.inl (by omega))⟩)
  rw [if_neg i3]
  by_cases i4 : len.toNat ≤ P.maxMsgLen + 3
  · exact .inr (.inr (.inr ⟨if_pos i4, by omega, i4⟩))
  · exact .inr (.inl ⟨if_neg i4, .inr (.inr (by omega))⟩)

/-- The decoder answers "no byte" only for a stream that has none. -/
theorem decodeCommand_empty {bytes : List Byte} : decodeCommand bytes = .error .empty ↔ bytes = [] := by
  constructor
  · intro h
    cases bytes with
    | nil => rfl
    | cons op rest =>
      have tw : ∀ m, takeWord m rest ≠ .error .empty := by
        intro m; unfold takeWord; split <;> simp
      have tb : ∀ m, takeByte m rest ≠ .error .empty := by
        intro m; unfold takeByte; split <;> simp
      have tp : takePayload rest ≠ .error .empty := by
        unfold takePayload; split <;> (try split) <;> simp
      have map_ne : ∀ {α β : Type} (x : Except DecodeError α) (f : α → β),
          x ≠ .error .empty → x.map f ≠ .error .empty := by
        intro α β x f hx; cases x <;> simp_all [Except.map]
      exfalso
      revert h
      simp only [decodeCommand]
      split <;> first
        | exact map_ne _ _ (tw _)
        | exact map_ne _ _ (tb _)
        | exact map_ne _ _ tp
        | simp
      intro h
      cases rest with
      | nil => simp [takeByte, bind, Except.bind] at h
      | cons en r =>
        simp only [takeByte, bind, Except.bind] at h
        unfold takeWord at h
        split at h <;> simp at h
        next e he => subst h; split at he <;> simp at he
  · rintro rfl
    rfl

end Sys2Proof
end

