-- ==== Sys2Proof/Laws/Memory.lean ====
section
/-! SUPPORT. The storage areas' memory: reading after writing, and the canonical form, which every operation keeps. -/

namespace Sys2Proof.Machine

@[simp] theorem memory_wf_nil : Memory.wf [] := ⟨List.Pairwise.nil, by simp⟩

theorem memory_wf_cons {c : Host.Cell} {m : Memory} :
    Memory.wf (c :: m) ↔ (∀ d ∈ m, c.1 < d.1) ∧ c.2 ≠ unlistedByte ∧ Memory.wf m := by
  simp only [Memory.wf, List.pairwise_cons, List.mem_cons, forall_eq_or_imp]
  tauto

@[simp] theorem memRead_nil (k : Nat) : memRead [] k = unlistedByte := rfl

theorem memRead_cons (c : Host.Cell) (m : Memory) (k : Nat) :
    memRead (c :: m) k = if c.1 = k then c.2 else memRead m k := rfl

/-- Below every listed offset a memory reads as unlisted. -/
theorem memRead_below {m : Memory} {k : Nat} (h : ∀ d ∈ m, k < d.1) : memRead m k = unlistedByte := by
  induction m with
  | nil => rfl
  | cons c m ih =>
    rw [memRead_cons, if_neg (by have := h c (by simp); omega)]
    exact ih fun d hd => h d (by simp [hd])

/-- What a write leaves listed was listed before, or is the byte written. -/
theorem mem_memWrite {m : Memory} {k : Nat} {b : Byte} {d : Host.Cell} (h : d ∈ memWrite m k b) :
    d ∈ m ∨ d = (k, b) := by
  induction m with
  | nil =>
    simp only [memWrite] at h
    split at h
    · simp at h
    · exact .inr (by simpa using h)
  | cons c m ih =>
    obtain ⟨a, x⟩ := c
    simp only [memWrite] at h
    split at h
    · split at h
      · exact .inl h
      · rcases List.mem_cons.1 h with h | h
        · exact .inr h
        · exact .inl h
    · split at h
      · split at h
        · exact .inl (by simp [h])
        · rcases List.mem_cons.1 h with h | h
          · exact .inr h
          · exact .inl (by simp [h])
      · rcases List.mem_cons.1 h with h | h
        · exact .inl (by simp [h])
        · rcases ih h with h | h
          · exact .inl (by simp [h])
          · exact .inr h

/-- A write keeps the canonical form. -/
theorem memWrite_wf {m : Memory} (h : Memory.wf m) (k : Nat) (b : Byte) : Memory.wf (memWrite m k b) := by
  induction m with
  | nil =>
    simp only [memWrite]
    split
    · exact memory_wf_nil
    · next hb => exact memory_wf_cons.2 ⟨by simp, hb, memory_wf_nil⟩
  | cons c m ih =>
    obtain ⟨a, x⟩ := c
    obtain ⟨hlt, hx, hm⟩ := memory_wf_cons.1 h
    simp only [memWrite]
    split
    · next hka =>
      split
      · exact h
      · next hb =>
        refine memory_wf_cons.2 ⟨fun d hd => ?_, hb, h⟩
        rcases List.mem_cons.1 hd with rfl | hd
        · exact hka
        · exact lt_trans hka (hlt d hd)
    · split
      · next hka =>
        subst hka
        split
        · exact hm
        · next hb => exact memory_wf_cons.2 ⟨hlt, hb, hm⟩
      · next hle hne =>
        refine memory_wf_cons.2 ⟨fun d hd => ?_, hx, ih hm⟩
        rcases mem_memWrite hd with hd | rfl
        · exact hlt d hd
        · show a < k
          omega

/-- Reading the offset just written gives the byte written. -/
theorem memRead_memWrite_same {m : Memory} (h : Memory.wf m) (k : Nat) (b : Byte) :
    memRead (memWrite m k b) k = b := by
  induction m with
  | nil =>
    simp only [memWrite]
    split
    · next hb => simp [hb]
    · simp [memRead_cons]
  | cons c m ih =>
    obtain ⟨a, x⟩ := c
    obtain ⟨hlt, hx, hm⟩ := memory_wf_cons.1 h
    simp only [memWrite]
    split
    · next hka =>
      split
      · next hb =>
        rw [hb]
        refine memRead_below fun d hd => ?_
        rcases List.mem_cons.1 hd with rfl | hd
        · exact hka
        · exact lt_trans hka (hlt d hd)
      · simp [memRead_cons]
    · split
      · next hka =>
        subst hka
        split
        · next hb =>
          rw [hb]
          exact memRead_below hlt
        · simp [memRead_cons]
      · next hle hne =>
        rw [memRead_cons, if_neg (by show ¬a = k; omega)]
        exact ih hm

/-- Reading any other offset gives what it gave before. -/
theorem memRead_memWrite_other (m : Memory) {k j : Nat} (hj : j ≠ k) (b : Byte) :
    memRead (memWrite m k b) j = memRead m j := by
  induction m with
  | nil =>
    simp only [memWrite]
    split
    · rfl
    · simp [memRead_cons, Ne.symm hj]
  | cons c m ih =>
    obtain ⟨a, x⟩ := c
    simp only [memWrite]
    split
    · split
      · rfl
      · simp [memRead_cons, Ne.symm hj]
    · split
      · next hka =>
        subst hka
        split <;> simp [memRead_cons, Ne.symm hj]
      · simp only [memRead_cons, ih]

theorem memRead_memWrite {m : Memory} (h : Memory.wf m) (k j : Nat) (b : Byte) :
    memRead (memWrite m k b) j = if j = k then b else memRead m j := by
  split
  · next hj => rw [hj, memRead_memWrite_same h]
  · next hj => exact memRead_memWrite_other m hj b

/-- Two canonical memories that read the same everywhere are the same. -/
theorem memory_ext {m n : Memory} (hm : Memory.wf m) (hn : Memory.wf n) (h : ∀ k, memRead m k = memRead n k) :
    m = n := by
  induction m generalizing n with
  | nil =>
    cases n with
    | nil => rfl
    | cons d n =>
      have := h d.1
      rw [memRead_cons, if_pos rfl] at this
      exact absurd this.symm (memory_wf_cons.1 hn).2.1
  | cons c m ih =>
    obtain ⟨hlt, hx, hm'⟩ := memory_wf_cons.1 hm
    cases n with
    | nil =>
      have := h c.1
      rw [memRead_cons, if_pos rfl] at this
      exact absurd this hx
    | cons d n =>
      obtain ⟨hlt', hx', hn'⟩ := memory_wf_cons.1 hn
      have key : c.1 = d.1 := by
        rcases lt_trichotomy c.1 d.1 with hcd | hcd | hcd
        · have := h c.1
          rw [memRead_cons, if_pos rfl, memRead_cons, if_neg (by omega),
            memRead_below fun e he => lt_trans hcd (hlt' e he)] at this
          exact absurd this hx
        · exact hcd
        · have := h d.1
          rw [memRead_cons (d) , if_pos rfl, memRead_cons, if_neg (by omega),
            memRead_below fun e he => lt_trans hcd (hlt e he)] at this
          exact absurd this.symm hx'
      have val : c.2 = d.2 := by
        have := h c.1
        rwa [memRead_cons, if_pos rfl, memRead_cons, if_pos key.symm] at this
      have tails : m = n := ih hm' hn' fun k => by
        have := h k
        rw [memRead_cons, memRead_cons, key] at this
        by_cases hk : d.1 = k
        · rw [memRead_below (m := m) fun e he => by have := hlt e he; omega,
            memRead_below (m := n) fun e he => by have := hlt' e he; omega]
        · simpa [hk] using this
      rw [tails, Prod.ext key val]

/-! ## Several bytes -/

theorem memWriteBytes_wf {m : Memory} (h : Memory.wf m) (k : Nat) (bs : List Byte) :
    Memory.wf (memWriteBytes m k bs) := by
  induction bs generalizing m k with
  | nil => exact h
  | cons b bs ih => exact ih (memWrite_wf h k b) (k + 1)

/-- What a run of writes leaves listed was listed before, or stands inside the run. -/
theorem mem_memWriteBytes {m : Memory} {k : Nat} {bs : List Byte} {d : Host.Cell} (h : d ∈ memWriteBytes m k bs) :
    d ∈ m ∨ k ≤ d.1 ∧ d.1 < k + bs.length := by
  induction bs generalizing m k with
  | nil => exact .inl h
  | cons b bs ih =>
    rcases ih h with h | h
    · rcases mem_memWrite h with h | rfl
      · exact .inl h
      · exact .inr (by simp)
    · exact .inr (by simp only [List.length_cons]; omega)

/-- Reading after a run of writes. -/
theorem memRead_memWriteBytes {m : Memory} (h : Memory.wf m) (k : Nat) (bs : List Byte) (j : Nat) :
    memRead (memWriteBytes m k bs) j =
      if k ≤ j ∧ j < k + bs.length then bs.getD (j - k) unlistedByte else memRead m j := by
  induction bs generalizing m k with
  | nil => simp [memWriteBytes]
  | cons b bs ih =>
    rw [memWriteBytes, ih (memWrite_wf h k b), memRead_memWrite h]
    simp only [List.length_cons]
    by_cases hjk : j = k
    · subst hjk
      simp
    · by_cases hin : k + 1 ≤ j ∧ j < k + 1 + bs.length
      · rw [if_pos hin, if_pos (by omega), show j - k = (j - (k + 1)) + 1 by omega, List.getD_cons_succ]
      · rw [if_neg hin, if_neg hjk, if_neg (by omega)]

theorem memRead_memWriteBytes_outside {m : Memory} (h : Memory.wf m) {k j : Nat} {bs : List Byte}
    (hj : j < k ∨ k + bs.length ≤ j) : memRead (memWriteBytes m k bs) j = memRead m j := by
  rw [memRead_memWriteBytes h, if_neg (by omega)]

@[simp] theorem memReadBytes_length (m : Memory) (k n : Nat) : (memReadBytes m k n).length = n := by
  simp [memReadBytes]

theorem memReadBytes_getD (m : Memory) {k n i : Nat} (h : i < n) (d : Byte) :
    (memReadBytes m k n).getD i d = memRead m (k + i) := by
  simp [memReadBytes, h]

/-- Reading back the whole run just written gives its bytes. -/
theorem memReadBytes_memWriteBytes {m : Memory} (h : Memory.wf m) (k : Nat) (bs : List Byte) :
    memReadBytes (memWriteBytes m k bs) k bs.length = bs := by
  apply List.ext_getElem
  · simp
  · intro i h1 h2
    simp only [memReadBytes, List.getElem_map, List.getElem_range]
    rw [memRead_memWriteBytes h, if_pos (by omega), Nat.add_sub_cancel_left, List.getD_eq_getElem _ _ h2]

/-- Writing the same run of bytes twice is writing it once. -/
theorem memWriteBytes_idem {m : Memory} (h : Memory.wf m) (k : Nat) (bs : List Byte) :
    memWriteBytes (memWriteBytes m k bs) k bs = memWriteBytes m k bs := by
  have h1 := memWriteBytes_wf h k bs
  refine memory_ext (memWriteBytes_wf h1 k bs) h1 fun j => ?_
  rw [memRead_memWriteBytes h1, memRead_memWriteBytes h]
  split <;> rfl

end Sys2Proof.Machine
end

