-- ==== Sys2Proof/Laws/State.lean ====
section
/-! SUPPORT. One lemma for each field of State under each named update: what it becomes, or that it stays. -/

namespace Sys2Proof.Machine

variable (s : State)

/-! ## respond -/

@[simp] theorem respond_rb (bytes : List Byte) : (respond bytes s).rb = s.rb := rfl
@[simp] theorem respond_rbHead (bytes : List Byte) : (respond bytes s).rbHead = s.rbHead := rfl
@[simp] theorem respond_rbUsed (bytes : List Byte) : (respond bytes s).rbUsed = s.rbUsed := rfl
@[simp] theorem respond_rxState (bytes : List Byte) : (respond bytes s).rxState = s.rxState := rfl
@[simp] theorem respond_rxLen (bytes : List Byte) : (respond bytes s).rxLen = s.rxLen := rfl
@[simp] theorem respond_scratch (bytes : List Byte) : (respond bytes s).scratch = s.scratch := rfl
@[simp] theorem respond_sendBuf (bytes : List Byte) : (respond bytes s).sendBuf = s.sendBuf := rfl
@[simp] theorem respond_sendLen (bytes : List Byte) : (respond bytes s).sendLen = s.sendLen := rfl
@[simp] theorem respond_ackBuf (bytes : List Byte) : (respond bytes s).ackBuf = s.ackBuf := rfl
@[simp] theorem respond_txSrc (bytes : List Byte) : (respond bytes s).txSrc = s.txSrc := rfl
@[simp] theorem respond_txIdx (bytes : List Byte) : (respond bytes s).txIdx = s.txIdx := rfl
@[simp] theorem respond_txSent (bytes : List Byte) : (respond bytes s).txSent = s.txSent := rfl
@[simp] theorem respond_txDue (bytes : List Byte) : (respond bytes s).txDue = s.txDue := rfl
@[simp] theorem respond_txRel (bytes : List Byte) : (respond bytes s).txRel = s.txRel := rfl
@[simp] theorem respond_slotTx (bytes : List Byte) : (respond bytes s).slotTx = s.slotTx := rfl
@[simp] theorem respond_slotTxLen (bytes : List Byte) : (respond bytes s).slotTxLen = s.slotTxLen := rfl
@[simp] theorem respond_slotRx (bytes : List Byte) : (respond bytes s).slotRx = s.slotRx := rfl
@[simp] theorem respond_slotRxLen (bytes : List Byte) : (respond bytes s).slotRxLen = s.slotRxLen := rfl
@[simp] theorem respond_seqCur (bytes : List Byte) : (respond bytes s).seqCur = s.seqCur := rfl
@[simp] theorem respond_seqLastSeen (bytes : List Byte) : (respond bytes s).seqLastSeen = s.seqLastSeen := rfl
@[simp] theorem respond_ackOwed (bytes : List Byte) : (respond bytes s).ackOwed = s.ackOwed := rfl
@[simp] theorem respond_nowReg (bytes : List Byte) : (respond bytes s).nowReg = s.nowReg := rfl
@[simp] theorem respond_lastSend (bytes : List Byte) : (respond bytes s).lastSend = s.lastSend := rfl
@[simp] theorem respond_zeroRun (bytes : List Byte) : (respond bytes s).zeroRun = s.zeroRun := rfl
@[simp] theorem respond_errAckChecksum (bytes : List Byte) : (respond bytes s).errAckChecksum = s.errAckChecksum := rfl
@[simp] theorem respond_errFrame (bytes : List Byte) : (respond bytes s).errFrame = s.errFrame := rfl
@[simp] theorem respond_errMsgChecksum (bytes : List Byte) : (respond bytes s).errMsgChecksum = s.errMsgChecksum := rfl
@[simp] theorem respond_errOverflow (bytes : List Byte) : (respond bytes s).errOverflow = s.errOverflow := rfl
@[simp] theorem respond_msgFromBrick (bytes : List Byte) : (respond bytes s).msgFromBrick = s.msgFromBrick := rfl
@[simp] theorem respond_msgFromBricklet (bytes : List Byte) : (respond bytes s).msgFromBricklet = s.msgFromBricklet := rfl
@[simp] theorem respond_baudCfg (bytes : List Byte) : (respond bytes s).baudCfg = s.baudCfg := rfl
@[simp] theorem respond_baudCurrent (bytes : List Byte) : (respond bytes s).baudCurrent = s.baudCurrent := rfl
@[simp] theorem respond_baudNew (bytes : List Byte) : (respond bytes s).baudNew = s.baudNew := rfl
@[simp] theorem respond_baudChange (bytes : List Byte) : (respond bytes s).baudChange = s.baudChange := rfl
@[simp] theorem respond_dynEnable (bytes : List Byte) : (respond bytes s).dynEnable = s.dynEnable := rfl
@[simp] theorem respond_dynMin (bytes : List Byte) : (respond bytes s).dynMin = s.dynMin := rfl
@[simp] theorem respond_cmdIn (bytes : List Byte) : (respond bytes s).cmdIn = s.cmdIn := rfl
@[simp] theorem respond_out (bytes : List Byte) : (respond bytes s).out = s.out ++ bytes := rfl
@[simp] theorem respond_events (bytes : List Byte) : (respond bytes s).events = s.events := rfl
@[simp] theorem respond_staleUsed (bytes : List Byte) : (respond bytes s).staleUsed = s.staleUsed := rfl

/-! ## signal -/

@[simp] theorem signal_rb (e : Event) : (signal e s).rb = s.rb := rfl
@[simp] theorem signal_rbHead (e : Event) : (signal e s).rbHead = s.rbHead := rfl
@[simp] theorem signal_rbUsed (e : Event) : (signal e s).rbUsed = s.rbUsed := rfl
@[simp] theorem signal_rxState (e : Event) : (signal e s).rxState = s.rxState := rfl
@[simp] theorem signal_rxLen (e : Event) : (signal e s).rxLen = s.rxLen := rfl
@[simp] theorem signal_scratch (e : Event) : (signal e s).scratch = s.scratch := rfl
@[simp] theorem signal_sendBuf (e : Event) : (signal e s).sendBuf = s.sendBuf := rfl
@[simp] theorem signal_sendLen (e : Event) : (signal e s).sendLen = s.sendLen := rfl
@[simp] theorem signal_ackBuf (e : Event) : (signal e s).ackBuf = s.ackBuf := rfl
@[simp] theorem signal_txSrc (e : Event) : (signal e s).txSrc = s.txSrc := rfl
@[simp] theorem signal_txIdx (e : Event) : (signal e s).txIdx = s.txIdx := rfl
@[simp] theorem signal_txSent (e : Event) : (signal e s).txSent = s.txSent := rfl
@[simp] theorem signal_txDue (e : Event) : (signal e s).txDue = s.txDue := rfl
@[simp] theorem signal_txRel (e : Event) : (signal e s).txRel = s.txRel := rfl
@[simp] theorem signal_slotTx (e : Event) : (signal e s).slotTx = s.slotTx := rfl
@[simp] theorem signal_slotTxLen (e : Event) : (signal e s).slotTxLen = s.slotTxLen := rfl
@[simp] theorem signal_slotRx (e : Event) : (signal e s).slotRx = s.slotRx := rfl
@[simp] theorem signal_slotRxLen (e : Event) : (signal e s).slotRxLen = s.slotRxLen := rfl
@[simp] theorem signal_seqCur (e : Event) : (signal e s).seqCur = s.seqCur := rfl
@[simp] theorem signal_seqLastSeen (e : Event) : (signal e s).seqLastSeen = s.seqLastSeen := rfl
@[simp] theorem signal_ackOwed (e : Event) : (signal e s).ackOwed = s.ackOwed := rfl
@[simp] theorem signal_nowReg (e : Event) : (signal e s).nowReg = s.nowReg := rfl
@[simp] theorem signal_lastSend (e : Event) : (signal e s).lastSend = s.lastSend := rfl
@[simp] theorem signal_zeroRun (e : Event) : (signal e s).zeroRun = s.zeroRun := rfl
@[simp] theorem signal_errAckChecksum (e : Event) : (signal e s).errAckChecksum = s.errAckChecksum := rfl
@[simp] theorem signal_errFrame (e : Event) : (signal e s).errFrame = s.errFrame := rfl
@[simp] theorem signal_errMsgChecksum (e : Event) : (signal e s).errMsgChecksum = s.errMsgChecksum := rfl
@[simp] theorem signal_errOverflow (e : Event) : (signal e s).errOverflow = s.errOverflow := rfl
@[simp] theorem signal_msgFromBrick (e : Event) : (signal e s).msgFromBrick = s.msgFromBrick := rfl
@[simp] theorem signal_msgFromBricklet (e : Event) : (signal e s).msgFromBricklet = s.msgFromBricklet := rfl
@[simp] theorem signal_baudCfg (e : Event) : (signal e s).baudCfg = s.baudCfg := rfl
@[simp] theorem signal_baudCurrent (e : Event) : (signal e s).baudCurrent = s.baudCurrent := rfl
@[simp] theorem signal_baudNew (e : Event) : (signal e s).baudNew = s.baudNew := rfl
@[simp] theorem signal_baudChange (e : Event) : (signal e s).baudChange = s.baudChange := rfl
@[simp] theorem signal_dynEnable (e : Event) : (signal e s).dynEnable = s.dynEnable := rfl
@[simp] theorem signal_dynMin (e : Event) : (signal e s).dynMin = s.dynMin := rfl
@[simp] theorem signal_cmdIn (e : Event) : (signal e s).cmdIn = s.cmdIn := rfl
@[simp] theorem signal_out (e : Event) : (signal e s).out = s.out := rfl
@[simp] theorem signal_events (e : Event) : (signal e s).events = s.events ++ [e] := rfl
@[simp] theorem signal_staleUsed (e : Event) : (signal e s).staleUsed = s.staleUsed := rfl

/-! ## release -/

@[simp] theorem release_rb : (release s).rb = s.rb := rfl
@[simp] theorem release_rbHead : (release s).rbHead = s.rbHead := rfl
@[simp] theorem release_rbUsed : (release s).rbUsed = s.rbUsed := rfl
@[simp] theorem release_rxState : (release s).rxState = s.rxState := rfl
@[simp] theorem release_rxLen : (release s).rxLen = s.rxLen := rfl
@[simp] theorem release_scratch : (release s).scratch = s.scratch := rfl
@[simp] theorem release_sendBuf : (release s).sendBuf = s.sendBuf := rfl
@[simp] theorem release_sendLen : (release s).sendLen = 0#8 := rfl
@[simp] theorem release_ackBuf : (release s).ackBuf = s.ackBuf := rfl
@[simp] theorem release_txSrc : (release s).txSrc = s.txSrc := rfl
@[simp] theorem release_txIdx : (release s).txIdx = s.txIdx := rfl
@[simp] theorem release_txSent : (release s).txSent = false := rfl
@[simp] theorem release_txDue : (release s).txDue = false := rfl
@[simp] theorem release_txRel : (release s).txRel = false := rfl
@[simp] theorem release_slotTx : (release s).slotTx = s.slotTx := rfl
@[simp] theorem release_slotTxLen : (release s).slotTxLen = s.slotTxLen := rfl
@[simp] theorem release_slotRx : (release s).slotRx = s.slotRx := rfl
@[simp] theorem release_slotRxLen : (release s).slotRxLen = s.slotRxLen := rfl
@[simp] theorem release_seqCur : (release s).seqCur = nextSeq s.seqCur := rfl
@[simp] theorem release_seqLastSeen : (release s).seqLastSeen = s.seqLastSeen := rfl
@[simp] theorem release_ackOwed : (release s).ackOwed = s.ackOwed := rfl
@[simp] theorem release_nowReg : (release s).nowReg = s.nowReg := rfl
@[simp] theorem release_lastSend : (release s).lastSend = s.lastSend := rfl
@[simp] theorem release_zeroRun : (release s).zeroRun = s.zeroRun := rfl
@[simp] theorem release_errAckChecksum : (release s).errAckChecksum = s.errAckChecksum := rfl
@[simp] theorem release_errFrame : (release s).errFrame = s.errFrame := rfl
@[simp] theorem release_errMsgChecksum : (release s).errMsgChecksum = s.errMsgChecksum := rfl
@[simp] theorem release_errOverflow : (release s).errOverflow = s.errOverflow := rfl
@[simp] theorem release_msgFromBrick : (release s).msgFromBrick = s.msgFromBrick := rfl
@[simp] theorem release_msgFromBricklet : (release s).msgFromBricklet = s.msgFromBricklet := rfl
@[simp] theorem release_baudCfg : (release s).baudCfg = s.baudCfg := rfl
@[simp] theorem release_baudCurrent : (release s).baudCurrent = s.baudCurrent := rfl
@[simp] theorem release_baudNew : (release s).baudNew = s.baudNew := rfl
@[simp] theorem release_baudChange : (release s).baudChange = s.baudChange := rfl
@[simp] theorem release_dynEnable : (release s).dynEnable = s.dynEnable := rfl
@[simp] theorem release_dynMin : (release s).dynMin = s.dynMin := rfl
@[simp] theorem release_cmdIn : (release s).cmdIn = s.cmdIn := rfl
@[simp] theorem release_out : (release s).out = s.out := rfl
@[simp] theorem release_events : (release s).events = s.events := rfl
@[simp] theorem release_staleUsed : (release s).staleUsed = s.staleUsed := rfl

/-! ## seekAgain -/

@[simp] theorem seekAgain_rb : (seekAgain s).rb = s.rb := rfl
@[simp] theorem seekAgain_rbHead : (seekAgain s).rbHead = s.rbHead := rfl
@[simp] theorem seekAgain_rbUsed : (seekAgain s).rbUsed = s.rbUsed := rfl
@[simp] theorem seekAgain_rxState : (seekAgain s).rxState = .seeking := rfl
@[simp] theorem seekAgain_rxLen : (seekAgain s).rxLen = 0#8 := rfl
@[simp] theorem seekAgain_scratch : (seekAgain s).scratch = s.scratch := rfl
@[simp] theorem seekAgain_sendBuf : (seekAgain s).sendBuf = s.sendBuf := rfl
@[simp] theorem seekAgain_sendLen : (seekAgain s).sendLen = s.sendLen := rfl
@[simp] theorem seekAgain_ackBuf : (seekAgain s).ackBuf = s.ackBuf := rfl
@[simp] theorem seekAgain_txSrc : (seekAgain s).txSrc = s.txSrc := rfl
@[simp] theorem seekAgain_txIdx : (seekAgain s).txIdx = s.txIdx := rfl
@[simp] theorem seekAgain_txSent : (seekAgain s).txSent = s.txSent := rfl
@[simp] theorem seekAgain_txDue : (seekAgain s).txDue = s.txDue := rfl
@[simp] theorem seekAgain_txRel : (seekAgain s).txRel = s.txRel := rfl
@[simp] theorem seekAgain_slotTx : (seekAgain s).slotTx = s.slotTx := rfl
@[simp] theorem seekAgain_slotTxLen : (seekAgain s).slotTxLen = s.slotTxLen := rfl
@[simp] theorem seekAgain_slotRx : (seekAgain s).slotRx = s.slotRx := rfl
@[simp] theorem seekAgain_slotRxLen : (seekAgain s).slotRxLen = s.slotRxLen := rfl
@[simp] theorem seekAgain_seqCur : (seekAgain s).seqCur = s.seqCur := rfl
@[simp] theorem seekAgain_seqLastSeen : (seekAgain s).seqLastSeen = s.seqLastSeen := rfl
@[simp] theorem seekAgain_ackOwed : (seekAgain s).ackOwed = s.ackOwed := rfl
@[simp] theorem seekAgain_nowReg : (seekAgain s).nowReg = s.nowReg := rfl
@[simp] theorem seekAgain_lastSend : (seekAgain s).lastSend = s.lastSend := rfl
@[simp] theorem seekAgain_zeroRun : (seekAgain s).zeroRun = s.zeroRun := rfl
@[simp] theorem seekAgain_errAckChecksum : (seekAgain s).errAckChecksum = s.errAckChecksum := rfl
@[simp] theorem seekAgain_errFrame : (seekAgain s).errFrame = s.errFrame := rfl
@[simp] theorem seekAgain_errMsgChecksum : (seekAgain s).errMsgChecksum = s.errMsgChecksum := rfl
@[simp] theorem seekAgain_errOverflow : (seekAgain s).errOverflow = s.errOverflow := rfl
@[simp] theorem seekAgain_msgFromBrick : (seekAgain s).msgFromBrick = s.msgFromBrick := rfl
@[simp] theorem seekAgain_msgFromBricklet : (seekAgain s).msgFromBricklet = s.msgFromBricklet := rfl
@[simp] theorem seekAgain_baudCfg : (seekAgain s).baudCfg = s.baudCfg := rfl
@[simp] theorem seekAgain_baudCurrent : (seekAgain s).baudCurrent = s.baudCurrent := rfl
@[simp] theorem seekAgain_baudNew : (seekAgain s).baudNew = s.baudNew := rfl
@[simp] theorem seekAgain_baudChange : (seekAgain s).baudChange = s.baudChange := rfl
@[simp] theorem seekAgain_dynEnable : (seekAgain s).dynEnable = s.dynEnable := rfl
@[simp] theorem seekAgain_dynMin : (seekAgain s).dynMin = s.dynMin := rfl
@[simp] theorem seekAgain_cmdIn : (seekAgain s).cmdIn = s.cmdIn := rfl
@[simp] theorem seekAgain_out : (seekAgain s).out = s.out := rfl
@[simp] theorem seekAgain_events : (seekAgain s).events = s.events := rfl
@[simp] theorem seekAgain_staleUsed : (seekAgain s).staleUsed = s.staleUsed := rfl

/-! ## emptySlotTx -/

@[simp] theorem emptySlotTx_rb (P : Params) : (emptySlotTx P s).rb = s.rb := rfl
@[simp] theorem emptySlotTx_rbHead (P : Params) : (emptySlotTx P s).rbHead = s.rbHead := rfl
@[simp] theorem emptySlotTx_rbUsed (P : Params) : (emptySlotTx P s).rbUsed = s.rbUsed := rfl
@[simp] theorem emptySlotTx_rxState (P : Params) : (emptySlotTx P s).rxState = s.rxState := rfl
@[simp] theorem emptySlotTx_rxLen (P : Params) : (emptySlotTx P s).rxLen = s.rxLen := rfl
@[simp] theorem emptySlotTx_scratch (P : Params) : (emptySlotTx P s).scratch = s.scratch := rfl
@[simp] theorem emptySlotTx_sendBuf (P : Params) : (emptySlotTx P s).sendBuf = s.sendBuf := rfl
@[simp] theorem emptySlotTx_sendLen (P : Params) : (emptySlotTx P s).sendLen = s.sendLen := rfl
@[simp] theorem emptySlotTx_ackBuf (P : Params) : (emptySlotTx P s).ackBuf = s.ackBuf := rfl
@[simp] theorem emptySlotTx_txSrc (P : Params) : (emptySlotTx P s).txSrc = s.txSrc := rfl
@[simp] theorem emptySlotTx_txIdx (P : Params) : (emptySlotTx P s).txIdx = s.txIdx := rfl
@[simp] theorem emptySlotTx_txSent (P : Params) : (emptySlotTx P s).txSent = s.txSent := rfl
@[simp] theorem emptySlotTx_txDue (P : Params) : (emptySlotTx P s).txDue = s.txDue := rfl
@[simp] theorem emptySlotTx_txRel (P : Params) : (emptySlotTx P s).txRel = s.txRel := rfl
@[simp] theorem emptySlotTx_slotTx (P : Params) : (emptySlotTx P s).slotTx = memWriteBytes s.slotTx 0 (staleBytes P s.slotTxLen.toNat s) := rfl
@[simp] theorem emptySlotTx_slotTxLen (P : Params) : (emptySlotTx P s).slotTxLen = 0#8 := rfl
@[simp] theorem emptySlotTx_slotRx (P : Params) : (emptySlotTx P s).slotRx = s.slotRx := rfl
@[simp] theorem emptySlotTx_slotRxLen (P : Params) : (emptySlotTx P s).slotRxLen = s.slotRxLen := rfl
@[simp] theorem emptySlotTx_seqCur (P : Params) : (emptySlotTx P s).seqCur = s.seqCur := rfl
@[simp] theorem emptySlotTx_seqLastSeen (P : Params) : (emptySlotTx P s).seqLastSeen = s.seqLastSeen := rfl
@[simp] theorem emptySlotTx_ackOwed (P : Params) : (emptySlotTx P s).ackOwed = s.ackOwed := rfl
@[simp] theorem emptySlotTx_nowReg (P : Params) : (emptySlotTx P s).nowReg = s.nowReg := rfl
@[simp] theorem emptySlotTx_lastSend (P : Params) : (emptySlotTx P s).lastSend = s.lastSend := rfl
@[simp] theorem emptySlotTx_zeroRun (P : Params) : (emptySlotTx P s).zeroRun = s.zeroRun := rfl
@[simp] theorem emptySlotTx_errAckChecksum (P : Params) : (emptySlotTx P s).errAckChecksum = s.errAckChecksum := rfl
@[simp] theorem emptySlotTx_errFrame (P : Params) : (emptySlotTx P s).errFrame = s.errFrame := rfl
@[simp] theorem emptySlotTx_errMsgChecksum (P : Params) : (emptySlotTx P s).errMsgChecksum = s.errMsgChecksum := rfl
@[simp] theorem emptySlotTx_errOverflow (P : Params) : (emptySlotTx P s).errOverflow = s.errOverflow := rfl
@[simp] theorem emptySlotTx_msgFromBrick (P : Params) : (emptySlotTx P s).msgFromBrick = s.msgFromBrick := rfl
@[simp] theorem emptySlotTx_msgFromBricklet (P : Params) : (emptySlotTx P s).msgFromBricklet = s.msgFromBricklet := rfl
@[simp] theorem emptySlotTx_baudCfg (P : Params) : (emptySlotTx P s).baudCfg = s.baudCfg := rfl
@[simp] theorem emptySlotTx_baudCurrent (P : Params) : (emptySlotTx P s).baudCurrent = s.baudCurrent := rfl
@[simp] theorem emptySlotTx_baudNew (P : Params) : (emptySlotTx P s).baudNew = s.baudNew := rfl
@[simp] theorem emptySlotTx_baudChange (P : Params) : (emptySlotTx P s).baudChange = s.baudChange := rfl
@[simp] theorem emptySlotTx_dynEnable (P : Params) : (emptySlotTx P s).dynEnable = s.dynEnable := rfl
@[simp] theorem emptySlotTx_dynMin (P : Params) : (emptySlotTx P s).dynMin = s.dynMin := rfl
@[simp] theorem emptySlotTx_cmdIn (P : Params) : (emptySlotTx P s).cmdIn = s.cmdIn := rfl
@[simp] theorem emptySlotTx_out (P : Params) : (emptySlotTx P s).out = s.out := rfl
@[simp] theorem emptySlotTx_events (P : Params) : (emptySlotTx P s).events = s.events := rfl
@[simp] theorem emptySlotTx_staleUsed (P : Params) : (emptySlotTx P s).staleUsed = s.staleUsed + s.slotTxLen.toNat := rfl

/-! ## emptySlotRx -/

@[simp] theorem emptySlotRx_rb (P : Params) : (emptySlotRx P s).rb = s.rb := rfl
@[simp] theorem emptySlotRx_rbHead (P : Params) : (emptySlotRx P s).rbHead = s.rbHead := rfl
@[simp] theorem emptySlotRx_rbUsed (P : Params) : (emptySlotRx P s).rbUsed = s.rbUsed := rfl
@[simp] theorem emptySlotRx_rxState (P : Params) : (emptySlotRx P s).rxState = s.rxState := rfl
@[simp] theorem emptySlotRx_rxLen (P : Params) : (emptySlotRx P s).rxLen = s.rxLen := rfl
@[simp] theorem emptySlotRx_scratch (P : Params) : (emptySlotRx P s).scratch = s.scratch := rfl
@[simp] theorem emptySlotRx_sendBuf (P : Params) : (emptySlotRx P s).sendBuf = s.sendBuf := rfl
@[simp] theorem emptySlotRx_sendLen (P : Params) : (emptySlotRx P s).sendLen = s.sendLen := rfl
@[simp] theorem emptySlotRx_ackBuf (P : Params) : (emptySlotRx P s).ackBuf = s.ackBuf := rfl
@[simp] theorem emptySlotRx_txSrc (P : Params) : (emptySlotRx P s).txSrc = s.txSrc := rfl
@[simp] theorem emptySlotRx_txIdx (P : Params) : (emptySlotRx P s).txIdx = s.txIdx := rfl
@[simp] theorem emptySlotRx_txSent (P : Params) : (emptySlotRx P s).txSent = s.txSent := rfl
@[simp] theorem emptySlotRx_txDue (P : Params) : (emptySlotRx P s).txDue = s.txDue := rfl
@[simp] theorem emptySlotRx_txRel (P : Params) : (emptySlotRx P s).txRel = s.txRel := rfl
@[simp] theorem emptySlotRx_slotTx (P : Params) : (emptySlotRx P s).slotTx = s.slotTx := rfl
@[simp] theorem emptySlotRx_slotTxLen (P : Params) : (emptySlotRx P s).slotTxLen = s.slotTxLen := rfl
@[simp] theorem emptySlotRx_slotRx (P : Params) : (emptySlotRx P s).slotRx = memWriteBytes s.slotRx 0 (staleBytes P s.slotRxLen.toNat s) := rfl
@[simp] theorem emptySlotRx_slotRxLen (P : Params) : (emptySlotRx P s).slotRxLen = 0#8 := rfl
@[simp] theorem emptySlotRx_seqCur (P : Params) : (emptySlotRx P s).seqCur = s.seqCur := rfl
@[simp] theorem emptySlotRx_seqLastSeen (P : Params) : (emptySlotRx P s).seqLastSeen = s.seqLastSeen := rfl
@[simp] theorem emptySlotRx_ackOwed (P : Params) : (emptySlotRx P s).ackOwed = s.ackOwed := rfl
@[simp] theorem emptySlotRx_nowReg (P : Params) : (emptySlotRx P s).nowReg = s.nowReg := rfl
@[simp] theorem emptySlotRx_lastSend (P : Params) : (emptySlotRx P s).lastSend = s.lastSend := rfl
@[simp] theorem emptySlotRx_zeroRun (P : Params) : (emptySlotRx P s).zeroRun = s.zeroRun := rfl
@[simp] theorem emptySlotRx_errAckChecksum (P : Params) : (emptySlotRx P s).errAckChecksum = s.errAckChecksum := rfl
@[simp] theorem emptySlotRx_errFrame (P : Params) : (emptySlotRx P s).errFrame = s.errFrame := rfl
@[simp] theorem emptySlotRx_errMsgChecksum (P : Params) : (emptySlotRx P s).errMsgChecksum = s.errMsgChecksum := rfl
@[simp] theorem emptySlotRx_errOverflow (P : Params) : (emptySlotRx P s).errOverflow = s.errOverflow := rfl
@[simp] theorem emptySlotRx_msgFromBrick (P : Params) : (emptySlotRx P s).msgFromBrick = s.msgFromBrick := rfl
@[simp] theorem emptySlotRx_msgFromBricklet (P : Params) : (emptySlotRx P s).msgFromBricklet = s.msgFromBricklet := rfl
@[simp] theorem emptySlotRx_baudCfg (P : Params) : (emptySlotRx P s).baudCfg = s.baudCfg := rfl
@[simp] theorem emptySlotRx_baudCurrent (P : Params) : (emptySlotRx P s).baudCurrent = s.baudCurrent := rfl
@[simp] theorem emptySlotRx_baudNew (P : Params) : (emptySlotRx P s).baudNew = s.baudNew := rfl
@[simp] theorem emptySlotRx_baudChange (P : Params) : (emptySlotRx P s).baudChange = s.baudChange := rfl
@[simp] theorem emptySlotRx_dynEnable (P : Params) : (emptySlotRx P s).dynEnable = s.dynEnable := rfl
@[simp] theorem emptySlotRx_dynMin (P : Params) : (emptySlotRx P s).dynMin = s.dynMin := rfl
@[simp] theorem emptySlotRx_cmdIn (P : Params) : (emptySlotRx P s).cmdIn = s.cmdIn := rfl
@[simp] theorem emptySlotRx_out (P : Params) : (emptySlotRx P s).out = s.out := rfl
@[simp] theorem emptySlotRx_events (P : Params) : (emptySlotRx P s).events = s.events := rfl
@[simp] theorem emptySlotRx_staleUsed (P : Params) : (emptySlotRx P s).staleUsed = s.staleUsed + s.slotRxLen.toNat := rfl

/-! ## rbAppend -/

@[simp] theorem rbAppend_rb (P : Params) (b : Byte) : (rbAppend P b s).rb = memWrite s.rb (rbOffset P s s.rbUsed) b := rfl
@[simp] theorem rbAppend_rbHead (P : Params) (b : Byte) : (rbAppend P b s).rbHead = s.rbHead := rfl
@[simp] theorem rbAppend_rbUsed (P : Params) (b : Byte) : (rbAppend P b s).rbUsed = s.rbUsed + 1 := rfl
@[simp] theorem rbAppend_rxState (P : Params) (b : Byte) : (rbAppend P b s).rxState = s.rxState := rfl
@[simp] theorem rbAppend_rxLen (P : Params) (b : Byte) : (rbAppend P b s).rxLen = s.rxLen := rfl
@[simp] theorem rbAppend_scratch (P : Params) (b : Byte) : (rbAppend P b s).scratch = s.scratch := rfl
@[simp] theorem rbAppend_sendBuf (P : Params) (b : Byte) : (rbAppend P b s).sendBuf = s.sendBuf := rfl
@[simp] theorem rbAppend_sendLen (P : Params) (b : Byte) : (rbAppend P b s).sendLen = s.sendLen := rfl
@[simp] theorem rbAppend_ackBuf (P : Params) (b : Byte) : (rbAppend P b s).ackBuf = s.ackBuf := rfl
@[simp] theorem rbAppend_txSrc (P : Params) (b : Byte) : (rbAppend P b s).txSrc = s.txSrc := rfl
@[simp] theorem rbAppend_txIdx (P : Params) (b : Byte) : (rbAppend P b s).txIdx = s.txIdx := rfl
@[simp] theorem rbAppend_txSent (P : Params) (b : Byte) : (rbAppend P b s).txSent = s.txSent := rfl
@[simp] theorem rbAppend_txDue (P : Params) (b : Byte) : (rbAppend P b s).txDue = s.txDue := rfl
@[simp] theorem rbAppend_txRel (P : Params) (b : Byte) : (rbAppend P b s).txRel = s.txRel := rfl
@[simp] theorem rbAppend_slotTx (P : Params) (b : Byte) : (rbAppend P b s).slotTx = s.slotTx := rfl
@[simp] theorem rbAppend_slotTxLen (P : Params) (b : Byte) : (rbAppend P b s).slotTxLen = s.slotTxLen := rfl
@[simp] theorem rbAppend_slotRx (P : Params) (b : Byte) : (rbAppend P b s).slotRx = s.slotRx := rfl
@[simp] theorem rbAppend_slotRxLen (P : Params) (b : Byte) : (rbAppend P b s).slotRxLen = s.slotRxLen := rfl
@[simp] theorem rbAppend_seqCur (P : Params) (b : Byte) : (rbAppend P b s).seqCur = s.seqCur := rfl
@[simp] theorem rbAppend_seqLastSeen (P : Params) (b : Byte) : (rbAppend P b s).seqLastSeen = s.seqLastSeen := rfl
@[simp] theorem rbAppend_ackOwed (P : Params) (b : Byte) : (rbAppend P b s).ackOwed = s.ackOwed := rfl
@[simp] theorem rbAppend_nowReg (P : Params) (b : Byte) : (rbAppend P b s).nowReg = s.nowReg := rfl
@[simp] theorem rbAppend_lastSend (P : Params) (b : Byte) : (rbAppend P b s).lastSend = s.lastSend := rfl
@[simp] theorem rbAppend_zeroRun (P : Params) (b : Byte) : (rbAppend P b s).zeroRun = s.zeroRun := rfl
@[simp] theorem rbAppend_errAckChecksum (P : Params) (b : Byte) : (rbAppend P b s).errAckChecksum = s.errAckChecksum := rfl
@[simp] theorem rbAppend_errFrame (P : Params) (b : Byte) : (rbAppend P b s).errFrame = s.errFrame := rfl
@[simp] theorem rbAppend_errMsgChecksum (P : Params) (b : Byte) : (rbAppend P b s).errMsgChecksum = s.errMsgChecksum := rfl
@[simp] theorem rbAppend_errOverflow (P : Params) (b : Byte) : (rbAppend P b s).errOverflow = s.errOverflow := rfl
@[simp] theorem rbAppend_msgFromBrick (P : Params) (b : Byte) : (rbAppend P b s).msgFromBrick = s.msgFromBrick := rfl
@[simp] theorem rbAppend_msgFromBricklet (P : Params) (b : Byte) : (rbAppend P b s).msgFromBricklet = s.msgFromBricklet := rfl
@[simp] theorem rbAppend_baudCfg (P : Params) (b : Byte) : (rbAppend P b s).baudCfg = s.baudCfg := rfl
@[simp] theorem rbAppend_baudCurrent (P : Params) (b : Byte) : (rbAppend P b s).baudCurrent = s.baudCurrent := rfl
@[simp] theorem rbAppend_baudNew (P : Params) (b : Byte) : (rbAppend P b s).baudNew = s.baudNew := rfl
@[simp] theorem rbAppend_baudChange (P : Params) (b : Byte) : (rbAppend P b s).baudChange = s.baudChange := rfl
@[simp] theorem rbAppend_dynEnable (P : Params) (b : Byte) : (rbAppend P b s).dynEnable = s.dynEnable := rfl
@[simp] theorem rbAppend_dynMin (P : Params) (b : Byte) : (rbAppend P b s).dynMin = s.dynMin := rfl
@[simp] theorem rbAppend_cmdIn (P : Params) (b : Byte) : (rbAppend P b s).cmdIn = s.cmdIn := rfl
@[simp] theorem rbAppend_out (P : Params) (b : Byte) : (rbAppend P b s).out = s.out := rfl
@[simp] theorem rbAppend_events (P : Params) (b : Byte) : (rbAppend P b s).events = s.events := rfl
@[simp] theorem rbAppend_staleUsed (P : Params) (b : Byte) : (rbAppend P b s).staleUsed = s.staleUsed := rfl

/-! ## setAreaMem: the area named is replaced, every other area and every other field stays -/

@[simp] theorem areaMem_setAreaMem_same (m : Memory) (a : Area) : areaMem (setAreaMem s m a) a = m := by cases a <;> rfl
theorem areaMem_setAreaMem_other (m : Memory) {a b : Area} (h : b ≠ a) :
    areaMem (setAreaMem s m a) b = areaMem s b := by
  cases a <;> cases b <;> first | rfl | exact absurd rfl h
@[simp] theorem setAreaMem_rbHead (m : Memory) (a : Area) : (setAreaMem s m a).rbHead = s.rbHead := by cases a <;> rfl
@[simp] theorem setAreaMem_rbUsed (m : Memory) (a : Area) : (setAreaMem s m a).rbUsed = s.rbUsed := by cases a <;> rfl
@[simp] theorem setAreaMem_rxState (m : Memory) (a : Area) : (setAreaMem s m a).rxState = s.rxState := by cases a <;> rfl
@[simp] theorem setAreaMem_rxLen (m : Memory) (a : Area) : (setAreaMem s m a).rxLen = s.rxLen := by cases a <;> rfl
@[simp] theorem setAreaMem_sendLen (m : Memory) (a : Area) : (setAreaMem s m a).sendLen = s.sendLen := by cases a <;> rfl
@[simp] theorem setAreaMem_txSrc (m : Memory) (a : Area) : (setAreaMem s m a).txSrc = s.txSrc := by cases a <;> rfl
@[simp] theorem setAreaMem_txIdx (m : Memory) (a : Area) : (setAreaMem s m a).txIdx = s.txIdx := by cases a <;> rfl
@[simp] theorem setAreaMem_txSent (m : Memory) (a : Area) : (setAreaMem s m a).txSent = s.txSent := by cases a <;> rfl
@[simp] theorem setAreaMem_txDue (m : Memory) (a : Area) : (setAreaMem s m a).txDue = s.txDue := by cases a <;> rfl
@[simp] theorem setAreaMem_txRel (m : Memory) (a : Area) : (setAreaMem s m a).txRel = s.txRel := by cases a <;> rfl
@[simp] theorem setAreaMem_slotTxLen (m : Memory) (a : Area) : (setAreaMem s m a).slotTxLen = s.slotTxLen := by cases a <;> rfl
@[simp] theorem setAreaMem_slotRxLen (m : Memory) (a : Area) : (setAreaMem s m a).slotRxLen = s.slotRxLen := by cases a <;> rfl
@[simp] theorem setAreaMem_seqCur (m : Memory) (a : Area) : (setAreaMem s m a).seqCur = s.seqCur := by cases a <;> rfl
@[simp] theorem setAreaMem_seqLastSeen (m : Memory) (a : Area) : (setAreaMem s m a).seqLastSeen = s.seqLastSeen := by cases a <;> rfl
@[simp] theorem setAreaMem_ackOwed (m : Memory) (a : Area) : (setAreaMem s m a).ackOwed = s.ackOwed := by cases a <;> rfl
@[simp] theorem setAreaMem_nowReg (m : Memory) (a : Area) : (setAreaMem s m a).nowReg = s.nowReg := by cases a <;> rfl
@[simp] theorem setAreaMem_lastSend (m : Memory) (a : Area) : (setAreaMem s m a).lastSend = s.lastSend := by cases a <;> rfl
@[simp] theorem setAreaMem_zeroRun (m : Memory) (a : Area) : (setAreaMem s m a).zeroRun = s.zeroRun := by cases a <;> rfl
@[simp] theorem setAreaMem_errAckChecksum (m : Memory) (a : Area) : (setAreaMem s m a).errAckChecksum = s.errAckChecksum := by cases a <;> rfl
@[simp] theorem setAreaMem_errFrame (m : Memory) (a : Area) : (setAreaMem s m a).errFrame = s.errFrame := by cases a <;> rfl
@[simp] theorem setAreaMem_errMsgChecksum (m : Memory) (a : Area) : (setAreaMem s m a).errMsgChecksum = s.errMsgChecksum := by cases a <;> rfl
@[simp] theorem setAreaMem_errOverflow (m : Memory) (a : Area) : (setAreaMem s m a).errOverflow = s.errOverflow := by cases a <;> rfl
@[simp] theorem setAreaMem_msgFromBrick (m : Memory) (a : Area) : (setAreaMem s m a).msgFromBrick = s.msgFromBrick := by cases a <;> rfl
@[simp] theorem setAreaMem_msgFromBricklet (m : Memory) (a : Area) : (setAreaMem s m a).msgFromBricklet = s.msgFromBricklet := by cases a <;> rfl
@[simp] theorem setAreaMem_baudCfg (m : Memory) (a : Area) : (setAreaMem s m a).baudCfg = s.baudCfg := by cases a <;> rfl
@[simp] theorem setAreaMem_baudCurrent (m : Memory) (a : Area) : (setAreaMem s m a).baudCurrent = s.baudCurrent := by cases a <;> rfl
@[simp] theorem setAreaMem_baudNew (m : Memory) (a : Area) : (setAreaMem s m a).baudNew = s.baudNew := by cases a <;> rfl
@[simp] theorem setAreaMem_baudChange (m : Memory) (a : Area) : (setAreaMem s m a).baudChange = s.baudChange := by cases a <;> rfl
@[simp] theorem setAreaMem_dynEnable (m : Memory) (a : Area) : (setAreaMem s m a).dynEnable = s.dynEnable := by cases a <;> rfl
@[simp] theorem setAreaMem_dynMin (m : Memory) (a : Area) : (setAreaMem s m a).dynMin = s.dynMin := by cases a <;> rfl
@[simp] theorem setAreaMem_cmdIn (m : Memory) (a : Area) : (setAreaMem s m a).cmdIn = s.cmdIn := by cases a <;> rfl
@[simp] theorem setAreaMem_out (m : Memory) (a : Area) : (setAreaMem s m a).out = s.out := by cases a <;> rfl
@[simp] theorem setAreaMem_events (m : Memory) (a : Area) : (setAreaMem s m a).events = s.events := by cases a <;> rfl
@[simp] theorem setAreaMem_staleUsed (m : Memory) (a : Area) : (setAreaMem s m a).staleUsed = s.staleUsed := by cases a <;> rfl
@[simp] theorem areaMem_rb : areaMem s .rb = s.rb := rfl
@[simp] theorem setAreaMem_at_rb (m : Memory) : setAreaMem s m .rb = { s with rb := m } := rfl
@[simp] theorem areaMem_scratch : areaMem s .scratch = s.scratch := rfl
@[simp] theorem setAreaMem_at_scratch (m : Memory) : setAreaMem s m .scratch = { s with scratch := m } := rfl
@[simp] theorem areaMem_sendBuf : areaMem s .sendBuf = s.sendBuf := rfl
@[simp] theorem setAreaMem_at_sendBuf (m : Memory) : setAreaMem s m .sendBuf = { s with sendBuf := m } := rfl
@[simp] theorem areaMem_ackBuf : areaMem s .ackBuf = s.ackBuf := rfl
@[simp] theorem setAreaMem_at_ackBuf (m : Memory) : setAreaMem s m .ackBuf = { s with ackBuf := m } := rfl
@[simp] theorem areaMem_slotTx : areaMem s .slotTx = s.slotTx := rfl
@[simp] theorem setAreaMem_at_slotTx (m : Memory) : setAreaMem s m .slotTx = { s with slotTx := m } := rfl
@[simp] theorem areaMem_slotRx : areaMem s .slotRx = s.slotRx := rfl
@[simp] theorem setAreaMem_at_slotRx (m : Memory) : setAreaMem s m .slotRx = { s with slotRx := m } := rfl

/-! ## resetState -/

@[simp] theorem resetState_rb (P : Params) : (resetState P s).rb = (State.resetWith P).rb := rfl
@[simp] theorem resetState_rbHead (P : Params) : (resetState P s).rbHead = (State.resetWith P).rbHead := rfl
@[simp] theorem resetState_rbUsed (P : Params) : (resetState P s).rbUsed = (State.resetWith P).rbUsed := rfl
@[simp] theorem resetState_rxState (P : Params) : (resetState P s).rxState = (State.resetWith P).rxState := rfl
@[simp] theorem resetState_rxLen (P : Params) : (resetState P s).rxLen = (State.resetWith P).rxLen := rfl
@[simp] theorem resetState_scratch (P : Params) : (resetState P s).scratch = (State.resetWith P).scratch := rfl
@[simp] theorem resetState_sendBuf (P : Params) : (resetState P s).sendBuf = (State.resetWith P).sendBuf := rfl
@[simp] theorem resetState_sendLen (P : Params) : (resetState P s).sendLen = (State.resetWith P).sendLen := rfl
@[simp] theorem resetState_ackBuf (P : Params) : (resetState P s).ackBuf = (State.resetWith P).ackBuf := rfl
@[simp] theorem resetState_txSrc (P : Params) : (resetState P s).txSrc = (State.resetWith P).txSrc := rfl
@[simp] theorem resetState_txIdx (P : Params) : (resetState P s).txIdx = (State.resetWith P).txIdx := rfl
@[simp] theorem resetState_txSent (P : Params) : (resetState P s).txSent = (State.resetWith P).txSent := rfl
@[simp] theorem resetState_txDue (P : Params) : (resetState P s).txDue = (State.resetWith P).txDue := rfl
@[simp] theorem resetState_txRel (P : Params) : (resetState P s).txRel = (State.resetWith P).txRel := rfl
@[simp] theorem resetState_slotTx (P : Params) : (resetState P s).slotTx = (State.resetWith P).slotTx := rfl
@[simp] theorem resetState_slotTxLen (P : Params) : (resetState P s).slotTxLen = (State.resetWith P).slotTxLen := rfl
@[simp] theorem resetState_slotRx (P : Params) : (resetState P s).slotRx = (State.resetWith P).slotRx := rfl
@[simp] theorem resetState_slotRxLen (P : Params) : (resetState P s).slotRxLen = (State.resetWith P).slotRxLen := rfl
@[simp] theorem resetState_seqCur (P : Params) : (resetState P s).seqCur = (State.resetWith P).seqCur := rfl
@[simp] theorem resetState_seqLastSeen (P : Params) : (resetState P s).seqLastSeen = (State.resetWith P).seqLastSeen := rfl
@[simp] theorem resetState_ackOwed (P : Params) : (resetState P s).ackOwed = (State.resetWith P).ackOwed := rfl
@[simp] theorem resetState_nowReg (P : Params) : (resetState P s).nowReg = (State.resetWith P).nowReg := rfl
@[simp] theorem resetState_lastSend (P : Params) : (resetState P s).lastSend = (State.resetWith P).lastSend := rfl
@[simp] theorem resetState_zeroRun (P : Params) : (resetState P s).zeroRun = (State.resetWith P).zeroRun := rfl
@[simp] theorem resetState_errAckChecksum (P : Params) : (resetState P s).errAckChecksum = (State.resetWith P).errAckChecksum := rfl
@[simp] theorem resetState_errFrame (P : Params) : (resetState P s).errFrame = (State.resetWith P).errFrame := rfl
@[simp] theorem resetState_errMsgChecksum (P : Params) : (resetState P s).errMsgChecksum = (State.resetWith P).errMsgChecksum := rfl
@[simp] theorem resetState_errOverflow (P : Params) : (resetState P s).errOverflow = (State.resetWith P).errOverflow := rfl
@[simp] theorem resetState_msgFromBrick (P : Params) : (resetState P s).msgFromBrick = (State.resetWith P).msgFromBrick := rfl
@[simp] theorem resetState_msgFromBricklet (P : Params) : (resetState P s).msgFromBricklet = (State.resetWith P).msgFromBricklet := rfl
@[simp] theorem resetState_baudCfg (P : Params) : (resetState P s).baudCfg = (State.resetWith P).baudCfg := rfl
@[simp] theorem resetState_baudCurrent (P : Params) : (resetState P s).baudCurrent = (State.resetWith P).baudCurrent := rfl
@[simp] theorem resetState_baudNew (P : Params) : (resetState P s).baudNew = (State.resetWith P).baudNew := rfl
@[simp] theorem resetState_baudChange (P : Params) : (resetState P s).baudChange = (State.resetWith P).baudChange := rfl
@[simp] theorem resetState_dynEnable (P : Params) : (resetState P s).dynEnable = (State.resetWith P).dynEnable := rfl
@[simp] theorem resetState_dynMin (P : Params) : (resetState P s).dynMin = (State.resetWith P).dynMin := rfl
@[simp] theorem resetState_cmdIn (P : Params) : (resetState P s).cmdIn = s.cmdIn := rfl
@[simp] theorem resetState_out (P : Params) : (resetState P s).out = s.out := rfl
@[simp] theorem resetState_events (P : Params) : (resetState P s).events = s.events := rfl
@[simp] theorem resetState_staleUsed (P : Params) : (resetState P s).staleUsed = s.staleUsed := rfl

/-! ## The areas under the updates that touch none -/

@[simp] theorem areaMem_respond (bytes : List Byte) (a : Area) : areaMem (respond bytes s) a = areaMem s a := by cases a <;> rfl
@[simp] theorem areaMem_signal (e : Event) (a : Area) : areaMem (signal e s) a = areaMem s a := by cases a <;> rfl
@[simp] theorem areaMem_release (a : Area) : areaMem (release s) a = areaMem s a := by cases a <;> rfl
@[simp] theorem areaMem_seekAgain (a : Area) : areaMem (seekAgain s) a = areaMem s a := by cases a <;> rfl

end Sys2Proof.Machine
end

