-- ==== Sys2Proof/Laws/Ops.lean ====
section
/-! SUPPORT. One lemma for each shared operation of Machine/Ops.lean: everything it can do when it answers, and the facts of
the parameters it rests on. -/

namespace Sys2Proof.Machine

/-! ## Runs -/

/-- A run in two parts ends well exactly when both parts do. -/
theorem run_bind_eq_ok {α β : Type} {x : Run α} {f : α → Run β} {r : β} :
    (x >>= f) = .ok r ↔ ∃ a, x = .ok a ∧ f a = .ok r := by
  cases x with
  | error e => simp [bind, Except.bind]
  | ok a => simp [bind, Except.bind]

@[simp] theorem run_ok_bind {α β : Type} (a : α) (f : α → Run β) : ((.ok a : Run α) >>= f) = f a := rfl

theorem runOutcome_eq_next {x : Run State} {t : State} : runOutcome x = .next t ↔ x = .ok t := by
  constructor
  · intro h
    rcases x with (f | r) | s <;> simp [runOutcome] at h
    rw [h]
  · rintro rfl
    rfl

@[simp] theorem runOutcome_ok (t : State) : runOutcome (.ok t) = .next t := rfl

/-! ## Parameters -/

/-- The ring holds at least four bytes: RB_SIZE is at least MAX_FRAME_LEN, which is at least 4 (R8). -/
theorem four_le_rbSize (P : Params) : 4 ≤ P.rbSize := by
  have := P.frame_fits; have := P.min_pos; have := P.min_le_max; omega

theorem rbSize_pos (P : Params) : 0 < P.rbSize := by have := four_le_rbSize P; omega

theorem maxFrameLen_le_rbSize (P : Params) : P.maxFrameLen ≤ P.rbSize := P.frame_fits

theorem maxFrameLen_le (P : Params) : P.maxFrameLen ≤ 255 := by
  have := P.max_le; unfold Params.maxFrameLen overhead; omega

theorem rbOffset_lt (P : Params) (s : State) (i : Nat) : rbOffset P s i < P.rbSize := Nat.mod_lt _ (rbSize_pos P)

/-- Two different places closer than RB_SIZE stand at different offsets of the ring (R17). -/
theorem rbOffset_ne (P : Params) (s : State) {i j : Nat} (hij : i < j) (hj : j - i < P.rbSize) :
    rbOffset P s i ≠ rbOffset P s j := by
  intro h
  have hm : (s.rbHead + i) ≡ (s.rbHead + i) + (j - i) [MOD P.rbSize] := by
    have : s.rbHead + i + (j - i) = s.rbHead + j := by omega
    rw [this]; exact h
  have h0 : j - i ≡ 0 [MOD P.rbSize] :=
    Nat.ModEq.add_left_cancel' (s.rbHead + i) (by simpa using hm.symm)
  have h1 := Nat.eq_zero_of_dvd_of_lt ((Nat.modEq_zero_iff_dvd).1 h0) hj
  omega

/-! ## Storage areas -/

theorem loadAt_eq_ok {P : Params} {a : Area} {i : Nat} {s : State} {b : Byte} :
    loadAt P a i s = .ok b ↔ i < areaSize P a ∧ b = memRead (areaMem s a) i := by
  unfold loadAt
  split
  · next h => simp [h, eq_comm]
  · next h => simp [h]

theorem load_eq_ok {P : Params} {a : Area} {n : Nat} {s : State} {bs : List Byte} :
    load P a n s = .ok bs ↔ n ≤ areaSize P a ∧ bs = memReadBytes (areaMem s a) 0 n := by
  unfold load
  split
  · next h => simp [h, eq_comm]
  · next h => simp [h]

theorem store_eq_ok {P : Params} {a : Area} {k : Nat} {bs : List Byte} {s t : State} :
    store P a k bs s = .ok t ↔
      k + bs.length ≤ areaSize P a ∧ t = setAreaMem s (memWriteBytes (areaMem s a) k bs) a := by
  unfold store
  split
  · next h => simp [h, eq_comm]
  · next h => simp [h]

/-- A store that answers leaves every byte of every area but those stored, reads back what was stored, and keeps every
area in canonical form. -/
theorem store_memory {P : Params} {a : Area} {k : Nat} {bs : List Byte} {s t : State}
    (h : store P a k bs s = .ok t) (hwf : (areaMem s a).wf) :
    memReadBytes (areaMem t a) k bs.length = bs
    ∧ (∀ j, j < k ∨ k + bs.length ≤ j → memRead (areaMem t a) j = memRead (areaMem s a) j)
    ∧ (∀ b, b ≠ a → areaMem t b = areaMem s b)
    ∧ (areaMem t a).wf := by
  obtain ⟨-, rfl⟩ := store_eq_ok.1 h
  rw [areaMem_setAreaMem_same]
  exact ⟨memReadBytes_memWriteBytes hwf k bs, fun j hj => memRead_memWriteBytes_outside hwf hj,
    fun b hb => areaMem_setAreaMem_other s _ hb, memWriteBytes_wf hwf k bs⟩

/-- Every area stays in canonical form and within its bounds when one area's bytes are replaced by such. -/
theorem setAreaMem_mem {P : Params} {s : State} {a : Area} {m : Memory}
    (hwf : ∀ b, (areaMem s b).wf) (hbd : ∀ b, ∀ c ∈ areaMem s b, c.1 < areaSize P b)
    (mwf : m.wf) (mbd : ∀ c ∈ m, c.1 < areaSize P a) :
    (∀ b, (areaMem (setAreaMem s m a) b).wf)
    ∧ ∀ b, ∀ c ∈ areaMem (setAreaMem s m a) b, c.1 < areaSize P b := by
  constructor <;> intro b <;> by_cases hb : b = a
  · subst hb; rwa [areaMem_setAreaMem_same]
  · rw [areaMem_setAreaMem_other s m hb]; exact hwf b
  · subst hb; rwa [areaMem_setAreaMem_same]
  · rw [areaMem_setAreaMem_other s m hb]; exact hbd b

/-- A store keeps the canonical form and the bounds of every area. -/
theorem store_keeps_mem {P : Params} {a : Area} {k : Nat} {bs : List Byte} {s t : State}
    (h : store P a k bs s = .ok t)
    (hwf : ∀ b, (areaMem s b).wf) (hbd : ∀ b, ∀ c ∈ areaMem s b, c.1 < areaSize P b) :
    (∀ b, (areaMem t b).wf) ∧ ∀ b, ∀ c ∈ areaMem t b, c.1 < areaSize P b := by
  obtain ⟨hlen, rfl⟩ := store_eq_ok.1 h
  refine setAreaMem_mem hwf hbd (memWriteBytes_wf (hwf a) k bs) fun c hc => ?_
  rcases mem_memWriteBytes hc with hc | hc
  · exact hbd a c hc
  · omega

/-! ## Counters -/

/-- R97 in the numbers: one more, except that the greatest value stays. -/
theorem satInc_toNat (c : Word) : (satInc c).toNat = min (c.toNat + 1) 0xFFFFFFFF := by
  unfold satInc
  split
  · next h => subst h; decide
  · next h =>
    have hne : c.toNat ≠ 0xFFFFFFFF := fun e => h (BitVec.eq_of_toNat_eq (by simpa using e))
    have hlt := c.isLt
    rw [BitVec.toNat_add, show (1#32).toNat = 1 from rfl, Nat.mod_eq_of_lt (by omega)]
    omega

theorem le_satInc (c : Word) : c ≤ satInc c := by
  rw [BitVec.le_def, satInc_toNat]
  have := c.isLt
  omega

/-! ## The ring buffer -/

theorem rbPeek_eq_ok {P : Params} {i : Nat} {s : State} {b : Byte} :
    rbPeek P i s = .ok b ↔ i < s.rbUsed ∧ b = memRead s.rb (rbOffset P s i) := by
  unfold rbPeek
  split
  · next h => simp [h, eq_comm]
  · next h => simp [h]

theorem rbPeekBytes_eq_ok {P : Params} {n : Nat} {s : State} {bs : List Byte} :
    rbPeekBytes P n s = .ok bs ↔ n ≤ s.rbUsed ∧ bs = ringBytes P n s := by
  unfold rbPeekBytes ringBytes
  split
  · next h => simp [h, eq_comm]
  · next h => simp [h]

theorem rbDrop_eq_ok {P : Params} {n : Nat} {s t : State} :
    rbDrop P n s = .ok t ↔
      n ≤ s.rbUsed ∧ t = { s with rbHead := (s.rbHead + n) % P.rbSize, rbUsed := s.rbUsed - n } := by
  unfold rbDrop
  split
  · next h => simp [h, eq_comm]
  · next h => simp [h]

@[simp] theorem ringBytes_length (P : Params) (n : Nat) (s : State) : (ringBytes P n s).length = n := by
  simp [ringBytes]

/-- The unread bytes after a drop are the later ones before it (R40). -/
theorem ringBytes_drop {P : Params} {n k : Nat} {s t : State} (h : rbDrop P n s = .ok t) :
    ringBytes P k t = (ringBytes P (n + k) s).drop n := by
  obtain ⟨-, rfl⟩ := rbDrop_eq_ok.1 h
  apply List.ext_getElem
  · simp
  · intro i h1 h2
    simp [ringBytes, rbOffset, Nat.add_assoc]

theorem unread_drop {P : Params} {n : Nat} {s t : State} (h : rbDrop P n s = .ok t) :
    unread P t = (unread P s).drop n := by
  obtain ⟨hn, ht⟩ := rbDrop_eq_ok.1 h
  have hu : t.rbUsed = s.rbUsed - n := by rw [ht]
  rw [unread, ringBytes_drop h, hu, Nat.add_sub_cancel' hn, unread]

/-- The two things `rb_push` does first (R41): nothing, or one byte lost and counted. -/
theorem rbMakeRoom_cases (P : Params) (s : State) :
    (s.rbUsed ≠ P.rbSize ∧ rbMakeRoom P s = s)
    ∨ (s.rbUsed = P.rbSize ∧ rbMakeRoom P s =
        signal .overflowError
          { s with
            rbHead := (s.rbHead + 1) % P.rbSize
            rbUsed := P.rbSize - 1
            errOverflow := satInc s.errOverflow
            rxState := .seeking
            rxLen := 0#8 }) := by
  unfold rbMakeRoom
  split
  · next h => exact .inr ⟨h, rfl⟩
  · next h => exact .inl ⟨h, rfl⟩

/-- A push with room: the byte comes after the unread ones, and nothing else changes (R41). -/
theorem rbPush_room {P : Params} {s : State} (b : Byte) (h : s.rbUsed ≠ P.rbSize) :
    rbPush P b s = { s with rb := memWrite s.rb (rbOffset P s s.rbUsed) b, rbUsed := s.rbUsed + 1 } := by
  rcases rbMakeRoom_cases P s with ⟨-, e⟩ | ⟨h', -⟩
  · rw [rbPush, e]; rfl
  · exact absurd h' h

/-- A push into a full buffer (R41): the byte takes the place of the oldest one, which is lost and counted. -/
theorem rbPush_full {P : Params} {s : State} (b : Byte) (h : s.rbUsed = P.rbSize) (hh : s.rbHead < P.rbSize) :
    rbPush P b s =
      { s with
        rb := memWrite s.rb s.rbHead b
        rbHead := (s.rbHead + 1) % P.rbSize
        errOverflow := satInc s.errOverflow
        rxState := .seeking
        rxLen := 0#8
        events := s.events ++ [.overflowError] } := by
  have hpos := rbSize_pos P
  rcases rbMakeRoom_cases P s with ⟨h', -⟩ | ⟨-, e⟩
  · exact absurd h h'
  · have hoff : ((s.rbHead + 1) % P.rbSize + (P.rbSize - 1)) % P.rbSize = s.rbHead := by
      rw [Nat.mod_add_mod, show s.rbHead + 1 + (P.rbSize - 1) = s.rbHead + P.rbSize by omega,
        Nat.add_mod_right, Nat.mod_eq_of_lt hh]
    rw [rbPush, e]
    simp only [rbAppend, rbOffset, signal, hoff, h]
    rw [show P.rbSize - 1 + 1 = P.rbSize by omega]

/-- What was unread stays unread, and the new byte comes last, while there is room (R41, R42). -/
theorem unread_rbPush_room {P : Params} {s : State} (b : Byte) (hwf : s.rb.wf) (h : s.rbUsed < P.rbSize) :
    unread P (rbPush P b s) = unread P s ++ [b] := by
  rw [rbPush_room b (by omega)]
  apply List.ext_getElem
  · simp [unread]
  · intro i h1 h2
    simp only [unread, ringBytes_length, List.length_append, List.length_singleton] at h1 h2
    by_cases hi : i = s.rbUsed
    · subst hi
      simp only [unread, ringBytes, rbOffset, List.getElem_map, List.getElem_range]
      rw [memRead_memWrite_same hwf, List.getElem_append_right (by simp)]
      simp
    · have hlt : i < s.rbUsed := by omega
      simp only [unread, ringBytes, List.getElem_map, List.getElem_range]
      rw [List.getElem_append_left (by simpa using hlt)]
      simp only [List.getElem_map, List.getElem_range]
      exact memRead_memWrite_other _ (rbOffset_ne P s hlt (by omega)) b

/-! ## Fetching -/

/-- Everything fetching can do (R106): nothing to fetch, a command, or a refusal. -/
theorem fetch_cases (s : State) :
    (s.cmdIn = [] ∧ fetch s = .ok none)
    ∨ (∃ i rest, decodeCommand s.cmdIn = .ok (i, rest) ∧ fetch s = .ok (some (i, { s with cmdIn := rest })))
    ∨ (∃ m, decodeCommand s.cmdIn = .error (.truncated m) ∧ fetch s = .error (.refusal (.truncatedCommand m))) := by
  unfold fetch
  rcases hd : decodeCommand s.cmdIn with (_ | m) | ⟨i, rest⟩
  · exact .inl ⟨decodeCommand_empty.1 hd, rfl⟩
  · exact .inr (.inr ⟨m, rfl, rfl⟩)
  · exact .inr (.inl ⟨i, rest, rfl, rfl⟩)

end Sys2Proof.Machine
end

