-- ==== Sys2Proof/Laws/PerInstr.lean ====
section
/-! SUPPORT. A statement about every instruction as syntax, one lemma for each constructor of `Instr`. -/

namespace Sys2Proof.Laws

/-- A well-formed instruction encodes to at least one byte and at most `longestCommand` bytes, and every encoding but a
SUBMIT's or a wire data frame's has at most six (R54 to R57, R61, R63). -/
def EncodeLength.Statement (i : Instr) : Prop :=
  ∀ P : Params, i.wf P = true →
    1 ≤ (encode i).length ∧ (encode i).length ≤ longestCommand
    ∧ (6 < (encode i).length → (∃ p, i = .submit p) ∨ ∃ own ackn p chk, i = .wData own ackn p chk)

/-- An encoding of one to six bytes is what the statement asks. -/
theorem encodeLength_of_short {i : Instr} (h1 : 1 ≤ (encode i).length) (h6 : (encode i).length ≤ 6) :
    EncodeLength.Statement i :=
  fun _ _ => ⟨h1, by unfold longestCommand; omega, fun h => by omega⟩

theorem EncodeLength.reset : EncodeLength.Statement .reset := encodeLength_of_short (by decide) (by decide)

theorem EncodeLength.tick (now : Word) : EncodeLength.Statement (.tick now) :=
  encodeLength_of_short (by simp [encode]) (by simp [encode, wordBytes])

theorem EncodeLength.rxByte (b : Byte) : EncodeLength.Statement (.rxByte b) :=
  encodeLength_of_short (by simp [encode]) (by simp [encode])

theorem EncodeLength.txByte : EncodeLength.Statement .txByte := encodeLength_of_short (by decide) (by decide)

theorem EncodeLength.submit (p : List Byte) : EncodeLength.Statement (.submit p) := by
  intro P h
  have hp : p.length ≤ 255 := by simpa [Instr.wf] using h
  simp only [encode, List.length_cons, longestCommand]
  exact ⟨by omega, by omega, fun _ => .inl ⟨p, rfl⟩⟩

theorem EncodeLength.drain : EncodeLength.Statement .drain := encodeLength_of_short (by decide) (by decide)

theorem EncodeLength.readReg (r : Byte) : EncodeLength.Statement (.readReg r) :=
  encodeLength_of_short (by simp [encode]) (by simp [encode])

theorem EncodeLength.setBaud (v : Word) : EncodeLength.Statement (.setBaud v) :=
  encodeLength_of_short (by simp [encode]) (by simp [encode, wordBytes])

theorem EncodeLength.setDynConfig (en : Byte) (min : Word) : EncodeLength.Statement (.setDynConfig en min) :=
  encodeLength_of_short (by simp [encode]) (by simp [encode, wordBytes])

theorem EncodeLength.proposeBaud (v : Word) : EncodeLength.Statement (.proposeBaud v) :=
  encodeLength_of_short (by simp [encode]) (by simp [encode, wordBytes])

theorem EncodeLength.invalid (op : Byte) : EncodeLength.Statement (.invalid op) :=
  encodeLength_of_short (by simp [encode]) (by simp [encode])

theorem EncodeLength.wIdle : EncodeLength.Statement .wIdle := encodeLength_of_short (by decide) (by decide)

theorem EncodeLength.wAck (own ackn : Nibble) (chk : Byte) : EncodeLength.Statement (.wAck own ackn chk) :=
  encodeLength_of_short (by simp [encode]) (by simp [encode])

theorem EncodeLength.wData (own ackn : Nibble) (p : List Byte) (chk : Byte) :
    EncodeLength.Statement (.wData own ackn p chk) := by
  intro P h
  have hp : p.length ≤ P.maxMsgLen := by
    simp only [Instr.wf, Bool.and_eq_true, decide_eq_true_eq] at h
    exact h.2
  have := P.max_le
  simp only [encode, List.length_cons, List.length_append, List.length_nil, longestCommand]
  exact ⟨by omega, by omega, fun _ => .inr ⟨own, ackn, p, chk, rfl⟩⟩

theorem EncodeLength.wBadlen (len : Byte) : EncodeLength.Statement (.wBadlen len) :=
  encodeLength_of_short (by simp [encode]) (by simp [encode])

end Sys2Proof.Laws
end

