-- ==== Sys2Proof/Laws/SeqAck.lean ====
section
/-! SUPPORT. The sequence and ACK tracker and the baud arithmetic: one lemma for each operation, saying everything it
can do. -/

namespace Sys2Proof.Machine

theorem nextSeq_ne_zero (n : Nibble) : nextSeq n ≠ 0#4 := by revert n; decide

theorem nextSeq_ne_self (n : Nibble) : nextSeq n ≠ n := by revert n; decide

/-- Everything `inbound_ack` can do (R80): ignore the number, mark the release, or release. -/
theorem inboundAck_cases (a : Nibble) (s : State) :
    (¬(s.sendLen ≠ 0#8 ∧ s.txSent = true ∧ a = s.seqCur) ∧ inboundAck a s = s)
    ∨ (s.sendLen ≠ 0#8 ∧ s.txSent = true ∧ a = s.seqCur ∧ s.txSrc = .data ∧ inboundAck a s = { s with txRel := true })
    ∨ (s.sendLen ≠ 0#8 ∧ s.txSent = true ∧ a = s.seqCur ∧ s.txSrc ≠ .data ∧ inboundAck a s = release s) := by
  unfold inboundAck
  split
  · next h =>
    split
    · next hd => exact .inr (.inl ⟨h.1, h.2.1, h.2.2, hd, rfl⟩)
    · next hd => exact .inr (.inr ⟨h.1, h.2.1, h.2.2, hd, rfl⟩)
  · next h => exact .inl ⟨h, rfl⟩

/-- `inbound_ack` touches the send buffer's life only: what a state is but for `send_len`, the transmit flags and
`seq_cur` stays (R80, R81). -/
theorem inboundAck_frame (a : Nibble) (s : State) :
    inboundAck a s =
      { s with
        sendLen := (inboundAck a s).sendLen
        txSent := (inboundAck a s).txSent
        txDue := (inboundAck a s).txDue
        txRel := (inboundAck a s).txRel
        seqCur := (inboundAck a s).seqCur } := by
  rcases inboundAck_cases a s with ⟨-, e⟩ | ⟨-, -, -, -, e⟩ | ⟨-, -, -, -, e⟩ <;> (simp only [e]; try rfl)

theorem deliver_eq_ok {P : Params} {own : Nibble} {p : List Byte} {s t : State} :
    deliver P own p s = .ok t ↔
      p.length ≤ P.maxMsgLen ∧ t =
        { s with
          slotRx := memWriteBytes s.slotRx 0 p
          slotRxLen := BitVec.ofNat 8 p.length
          seqLastSeen := own
          ackOwed := true
          msgFromBricklet := satInc s.msgFromBricklet } := by
  simp only [deliver, run_bind_eq_ok, store_eq_ok, areaSize, areaMem_slotRx, setAreaMem_at_slotRx, Nat.zero_add]
  constructor
  · rintro ⟨_, ⟨h, rfl⟩, e⟩
    exact ⟨h, (Except.ok.inj e).symm⟩
  · rintro ⟨h, rfl⟩
    exact ⟨_, ⟨h, rfl⟩, rfl⟩

/-- Everything `inbound_data` can do when it answers (R82): reserved number, duplicate, or delivery. -/
theorem inboundData_cases {P : Params} {own : Nibble} {p : List Byte} {s t : State}
    (h : inboundData P own p s = .ok t) :
    (own = 0#4 ∧ t = { s with errFrame := satInc s.errFrame, events := s.events ++ [.frameErrorSeq0] })
    ∨ (own ≠ 0#4 ∧ own = s.seqLastSeen ∧ t = { s with ackOwed := true })
    ∨ (own ≠ 0#4 ∧ own ≠ s.seqLastSeen ∧ p.length ≤ P.maxMsgLen ∧ t =
        { s with
          slotRx := memWriteBytes s.slotRx 0 p
          slotRxLen := BitVec.ofNat 8 p.length
          seqLastSeen := own
          ackOwed := true
          msgFromBricklet := satInc s.msgFromBricklet }) := by
  unfold inboundData at h
  split at h
  · next h0 => exact .inl ⟨h0, (Except.ok.inj h).symm⟩
  · next h0 =>
    split at h
    · next hd => exact .inr (.inl ⟨h0, hd, (Except.ok.inj h).symm⟩)
    · next hd =>
      obtain ⟨hp, rfl⟩ := deliver_eq_ok.1 h
      exact .inr (.inr ⟨h0, hd, hp, rfl⟩)

@[simp] theorem staleBytes_length (P : Params) (n : Nat) (s : State) : (staleBytes P n s).length = n := by
  simp [staleBytes]

/-! ## Baud arithmetic -/

/-- R91 in the numbers. -/
theorem clampBaud_toNat (v : Word) : (clampBaud v).toNat = min (max v.toNat 400000) 2000000 := by
  have hmin : baudMin.toNat = 400000 := rfl
  have hmax : baudMax.toNat = 2000000 := rfl
  simp only [clampBaud]
  split <;> split <;> simp only [BitVec.le_def, hmin, hmax] at * <;> omega

theorem clampBaud_inRange (v : Word) : BaudInRange (clampBaud v) := by
  have hmin : baudMin.toNat = 400000 := rfl
  have hmax : baudMax.toNat = 2000000 := rfl
  simp only [BaudInRange, BitVec.le_def, hmin, hmax, clampBaud_toNat]
  omega

theorem maxWord_toNat (a b : Word) : (maxWord a b).toNat = max a.toNat b.toNat := by
  unfold maxWord
  split <;> simp only [BitVec.le_def] at * <;> omega

/-- Everything BAUD_APPLY can do (R95). -/
theorem baudApply_cases (s : State) :
    (s.baudChange = true ∧ s.txSrc = .idle
      ∧ baudApply s = { s with baudCurrent := s.baudNew, baudChange := false })
    ∨ (¬(s.baudChange = true ∧ s.txSrc = .idle) ∧ baudApply s = s) := by
  unfold baudApply
  split
  · next h => exact .inl ⟨h.1, h.2, rfl⟩
  · next h => exact .inr ⟨h, rfl⟩

/-- Everything the fixed mode's part of SET_BAUD and SET_DYN_CONFIG can do (R92, R93). -/
theorem pendFixedRate_cases (s : State) :
    (s.dynEnable = false ∧ pendFixedRate s = { s with baudNew := s.baudCfg, baudChange := true })
    ∨ (s.dynEnable = true ∧ pendFixedRate s = s) := by
  unfold pendFixedRate
  split
  · next h => exact .inl ⟨h, rfl⟩
  · next h => exact .inr ⟨by simpa using h, rfl⟩

end Sys2Proof.Machine
end

