-- ==== Sys2Proof/Laws/Scan.lean ====
section
/-! SUPPORT. The scanner: one lemma for each of its steps, and its induction packaged once. -/

namespace Sys2Proof.Machine

/-- Everything `step_seek` can do when it answers (R74). -/
theorem stepSeek_cases {P : Params} {s t : State} (h : stepSeek P s = .ok t) :
    1 ≤ s.rbUsed ∧
    ((lenClass P (memRead s.rb (rbOffset P s 0)) = .idle ∧
        t = { s with rbHead := (s.rbHead + 1) % P.rbSize, rbUsed := s.rbUsed - 1, zeroRun := satInc s.zeroRun })
    ∨ (lenClass P (memRead s.rb (rbOffset P s 0)) = .badlen ∧
        t = { s with
              rbHead := (s.rbHead + 1) % P.rbSize
              rbUsed := s.rbUsed - 1
              errFrame := satInc s.errFrame
              events := s.events ++ [.frameErrorBadlen] })
    ∨ ((lenClass P (memRead s.rb (rbOffset P s 0)) = .ack ∨ lenClass P (memRead s.rb (rbOffset P s 0)) = .data) ∧
        t = { s with rxLen := memRead s.rb (rbOffset P s 0), rxState := .accumulating })) := by
  obtain ⟨len, hlen, h⟩ := run_bind_eq_ok.1 h
  obtain ⟨hu, rfl⟩ := rbPeek_eq_ok.1 hlen
  refine ⟨hu, ?_⟩
  split at h
  · next hc =>
    obtain ⟨s', hs', e⟩ := run_bind_eq_ok.1 h
    obtain ⟨-, rfl⟩ := rbDrop_eq_ok.1 hs'
    exact .inl ⟨hc, (Except.ok.inj e).symm⟩
  · next hc =>
    obtain ⟨s', hs', e⟩ := run_bind_eq_ok.1 h
    obtain ⟨-, rfl⟩ := rbDrop_eq_ok.1 hs'
    exact .inr (.inl ⟨hc, (Except.ok.inj e).symm⟩)
  · next hc => exact .inr (.inr ⟨.inl hc, (Except.ok.inj h).symm⟩)
  · next hc => exact .inr (.inr ⟨.inr hc, (Except.ok.inj h).symm⟩)

/-- `step_seek` answers whenever a byte is unread (R74). -/
theorem stepSeek_answers (P : Params) {s : State} (h : s.rbUsed ≠ 0) : ∃ t, stepSeek P s = .ok t := by
  have hp : rbPeek P 0 s = .ok (memRead s.rb (rbOffset P s 0)) := rbPeek_eq_ok.2 ⟨by omega, rfl⟩
  have hd := rbDrop_eq_ok (P := P) (n := 1) (s := s).2 ⟨by omega, rfl⟩
  simp only [stepSeek, hp, hd, run_ok_bind]
  split <;> exact ⟨_, rfl⟩

/-- Everything the checksum failure of R75 does. -/
theorem skipByte_eq_ok {P : Params} {s t : State} :
    skipByte P s = .ok t ↔ 1 ≤ s.rbUsed ∧ t =
      { s with
        rbHead := (s.rbHead + 1) % P.rbSize
        rbUsed := s.rbUsed - 1
        rxState := .seeking
        rxLen := 0#8
        errAckChecksum := if s.rxLen.toNat = overhead then satInc s.errAckChecksum else s.errAckChecksum
        errMsgChecksum := if s.rxLen.toNat = overhead then s.errMsgChecksum else satInc s.errMsgChecksum
        events := s.events ++ [if s.rxLen.toNat = overhead then .checksumErrorAck else .checksumErrorData] } := by
  simp only [skipByte, run_bind_eq_ok, rbDrop_eq_ok]
  by_cases h : s.rxLen.toNat = overhead
  · simp only [h, if_true, signal]
    constructor
    · rintro ⟨_, ⟨hu, rfl⟩, e⟩
      exact ⟨hu, (Except.ok.inj e).symm⟩
    · rintro ⟨hu, rfl⟩
      exact ⟨_, ⟨hu, rfl⟩, rfl⟩
  · simp only [h, if_false, signal]
    constructor
    · rintro ⟨_, ⟨hu, rfl⟩, e⟩
      exact ⟨hu, (Except.ok.inj e).symm⟩
    · rintro ⟨hu, rfl⟩
      exact ⟨_, ⟨hu, rfl⟩, rfl⟩

/-- What `consume` does first (R76): the frame's bytes are dropped, the zero run ends, the ACK nibble is honoured. -/
def afterAck (P : Params) (len sq : Byte) (s : State) : State :=
  inboundAck (seqAckn sq)
    { s with rbHead := (s.rbHead + len.toNat) % P.rbSize, rbUsed := s.rbUsed - len.toNat, zeroRun := 0#32 }

/-- Everything `consume` can do when it answers (R76). -/
theorem consume_eq_ok {P : Params} {len sq : Byte} {tail : List Byte} {s t : State} :
    consume P len sq tail s = .ok t ↔ len.toNat ≤ s.rbUsed ∧
      if overhead < len.toNat then inboundData P (seqOwn sq) tail.dropLast (afterAck P len sq s) = .ok t
      else t = afterAck P len sq s := by
  simp only [consume, run_bind_eq_ok, rbDrop_eq_ok]
  constructor
  · rintro ⟨_, ⟨hu, rfl⟩, e⟩
    refine ⟨hu, ?_⟩
    split at e
    · next h => rw [if_pos h]; exact e
    · next h => rw [if_neg h]; exact (Except.ok.inj e).symm
  · rintro ⟨hu, e⟩
    refine ⟨_, ⟨hu, rfl⟩, ?_⟩
    split at e
    · next h => rw [if_pos h]; exact e
    · next h => rw [if_neg h, e]; rfl

/-- The state in which `step_complete` judges the candidate: its bytes copied into `scratch` (R75). -/
def candidateState (P : Params) (s : State) : State :=
  { s with scratch := memWriteBytes s.scratch 0 (ringBytes P s.rxLen.toNat s) }

/-- `step_complete` on a complete candidate (R75), with its bytes as the ring holds them. -/
theorem stepComplete_eq {P : Params} {s : State} (hwf : s.scratch.wf) (hused : s.rxLen.toNat ≤ s.rbUsed)
    (hlen : s.rxLen.toNat ≤ P.maxFrameLen) {len sq : Byte} {tail : List Byte}
    (hg : ringBytes P s.rxLen.toNat s = len :: sq :: tail) :
    stepComplete P s =
      if (len :: sq :: tail).getLast? ≠ some (P.cs (len :: sq :: tail).dropLast) then
        (skipByte P (candidateState P s)).map .progress
      else if mustStall (seqOwn sq) (candidateState P s) then .ok (.stall (candidateState P s))
      else (consume P len sq tail (candidateState P s)).map fun t => .progress (seekAgain t) := by
  have hp : rbPeekBytes P s.rxLen.toNat s = .ok (ringBytes P s.rxLen.toNat s) := rbPeekBytes_eq_ok.2 ⟨hused, rfl⟩
  have hs : store P .scratch 0 (ringBytes P s.rxLen.toNat s) s = .ok (candidateState P s) :=
    store_eq_ok.2 ⟨by simpa [areaSize] using hlen, rfl⟩
  have hl : load P .scratch s.rxLen.toNat (candidateState P s) = .ok (len :: sq :: tail) := by
    refine load_eq_ok.2 ⟨by simpa [areaSize] using hlen, ?_⟩
    have := memReadBytes_memWriteBytes hwf 0 (ringBytes P s.rxLen.toNat s)
    rw [ringBytes_length] at this
    rw [← hg]
    exact this.symm
  simp only [stepComplete, hp, hs, run_ok_bind]
  rw [show (candidateState P s).rxLen = s.rxLen from rfl] at *
  simp only [hl, run_ok_bind]
  split
  · cases skipByte P (candidateState P s) <;> rfl
  · split
    · rfl
    · cases consume P len sq tail (candidateState P s) <;> rfl

/-! ## The loop -/

/-- SCAN's loop, once and for all: a relation that holds of nothing done, composes, and holds of each pass, holds of
the whole scan (R73). -/
theorem scan_keeps {P : Params} {R : State → State → Prop}
    (refl : ∀ s, R s s) (trans : ∀ s t u, R s t → R t u → R s u)
    (seek : ∀ s t, s.rxState = .seeking → s.rbUsed ≠ 0 → stepSeek P s = .ok t → R s t)
    (complete : ∀ s, s.rxState = .accumulating → s.rxLen.toNat ≤ s.rbUsed → R s { s with rxState := .frameComplete })
    (progress : ∀ s t, s.rxState = .frameComplete → stepComplete P s = .ok (.progress t) → R s t)
    (stall : ∀ s t, s.rxState = .frameComplete → stepComplete P s = .ok (.stall t) → R s t)
    {s t : State} (h : scan P s = .ok t) : R s t := by
  have loop : ∀ fuel s t, scanLoop P fuel s = .ok t → R s t := by
    intro fuel
    induction fuel with
    | zero => intro s t h; rw [← Except.ok.inj h]; exact refl s
    | succ fuel ih =>
      intro s t h
      simp only [scanLoop] at h
      split at h
      · next hs =>
        split at h
        · rw [← Except.ok.inj h]; exact refl s
        · next hu =>
          obtain ⟨u, hu', h⟩ := run_bind_eq_ok.1 h
          exact trans _ _ _ (seek s u hs hu hu') (ih u t h)
      · next hs =>
        split at h
        · rw [← Except.ok.inj h]; exact refl s
        · exact trans _ _ _ (complete s hs (by omega)) (ih _ t h)
      · next hs =>
        obtain ⟨r, hr, h⟩ := run_bind_eq_ok.1 h
        cases r with
        | stall u => rw [← Except.ok.inj h]; exact stall s u hs hr
        | progress u => exact trans _ _ _ (progress s u hs hr) (ih u t h)
  exact loop _ s t h

/-- An idle scanner has nothing to do (R73). -/
theorem scan_ringIdle {P : Params} {s : State} (h : RingIdle s) : scan P s = .ok s := by
  obtain ⟨h1, -, h3⟩ := h
  simp [scan, scanFuel, scanLoop, h1, h3]

end Sys2Proof.Machine
end

