-- ==== Sys2Proof/Laws/Send.lean ====
section
/-! SUPPORT. The send engine: one lemma for each operation, saying everything it can do. -/

namespace Sys2Proof.Machine

/-- Everything SUBMIT can do when it answers (R85): the length is out of range, or a message is in flight, or the payload
is taken. -/
theorem submitWith_cases {P : Params} {p : List Byte} {s t : State} (h : submitWith P p s = .ok t) :
    ((p.length < P.minMsgLen ∨ P.maxMsgLen < p.length) ∧
        t = { s with out := s.out ++ [2#8], events := s.events ++ [.submitLengthError] })
    ∨ (P.minMsgLen ≤ p.length ∧ p.length ≤ P.maxMsgLen ∧ (s.slotTxLen ≠ 0#8 ∨ s.sendLen ≠ 0#8) ∧
        t = { s with out := s.out ++ [1#8], events := s.events ++ [.busyError] })
    ∨ (P.minMsgLen ≤ p.length ∧ p.length ≤ P.maxMsgLen ∧ s.slotTxLen = 0#8 ∧ s.sendLen = 0#8 ∧
        t = { s with
              slotTx := memWriteBytes s.slotTx 0 p
              slotTxLen := BitVec.ofNat 8 p.length
              msgFromBrick := satInc s.msgFromBrick
              out := s.out ++ [0#8] }) := by
  unfold submitWith at h
  split at h
  · next hl => exact .inl ⟨hl, (Except.ok.inj h).symm⟩
  · next hl =>
    split at h
    · next hb => exact .inr (.inl ⟨by omega, by omega, hb, (Except.ok.inj h).symm⟩)
    · next hb =>
      obtain ⟨u, hu, e⟩ := run_bind_eq_ok.1 h
      obtain ⟨-, rfl⟩ := store_eq_ok.1 hu
      rw [not_or, not_not, not_not] at hb
      exact .inr (.inr ⟨by omega, by omega, hb.1, hb.2, (Except.ok.inj e).symm⟩)

/-- SUBMIT always answers: an accepted payload fits the mailbox (R85). -/
theorem submitWith_answers (P : Params) (p : List Byte) (s : State) : ∃ t, submitWith P p s = .ok t := by
  unfold submitWith
  split
  · exact ⟨_, rfl⟩
  · next hl =>
    split
    · exact ⟨_, rfl⟩
    · have hs := store_eq_ok (P := P) (a := .slotTx) (k := 0) (bs := p) (s := s).2
        ⟨by simp only [areaSize]; omega, rfl⟩
      rw [hs]
      exact ⟨_, rfl⟩

@[simp] theorem dataBody_length (p : List Byte) (own ackn : Nibble) : (dataBody p own ackn).length = p.length + 2 := rfl

@[simp] theorem withChecksum_length (P : Params) (body : List Byte) :
    (withChecksum P body).length = body.length + 1 := by
  simp [withChecksum]

theorem encodeData_eq_ok {P : Params} {p : List Byte} {own ackn : Nibble} {f : List Byte} :
    encodeData P p own ackn = .ok f ↔
      (P.minMsgLen ≤ p.length ∧ p.length ≤ P.maxMsgLen ∧ own ≠ 0#4) ∧ f = withChecksum P (dataBody p own ackn) := by
  unfold encodeData
  split
  · next h => simp [h, eq_comm]
  · next h => simp [h]

/-- The payload waiting in the transmit mailbox (R23). -/
def slotTxPayload (s : State) : List Byte := memReadBytes s.slotTx 0 s.slotTxLen.toNat

@[simp] theorem slotTxPayload_length (s : State) : (slotTxPayload s).length = s.slotTxLen.toNat :=
  memReadBytes_length _ _ _

/-- Everything FRAME_FROM_SLOT does when it answers (R86). -/
theorem frameFromSlot_eq_ok {P : Params} {s t : State} :
    frameFromSlot P s = .ok t ↔
      (P.minMsgLen ≤ s.slotTxLen.toNat ∧ s.slotTxLen.toNat ≤ P.maxMsgLen ∧ s.seqCur ≠ 0#4) ∧ t =
        { s with
          sendBuf := memWriteBytes s.sendBuf 0
            (withChecksum P (dataBody (slotTxPayload s) s.seqCur s.seqLastSeen))
          slotTx := memWriteBytes s.slotTx 0 (staleBytes P s.slotTxLen.toNat s)
          sendLen := s.slotTxLen + 3#8
          slotTxLen := 0#8
          txSent := false
          txRel := false
          txDue := true
          staleUsed := s.staleUsed + s.slotTxLen.toNat } := by
  simp only [frameFromSlot, run_bind_eq_ok, load_eq_ok, encodeData_eq_ok, store_eq_ok, areaSize, areaMem_slotTx,
    areaMem_sendBuf, setAreaMem_at_sendBuf]
  constructor
  · rintro ⟨_, ⟨h1, rfl⟩, _, ⟨⟨h2, h3, h4⟩, rfl⟩, _, ⟨h5, rfl⟩, e⟩
    rw [memReadBytes_length] at h2 h3
    exact ⟨⟨h2, h3, h4⟩, (Except.ok.inj e).symm⟩
  · rintro ⟨⟨h2, h3, h4⟩, rfl⟩
    refine ⟨_, ⟨h3, rfl⟩, _, ⟨⟨by rwa [memReadBytes_length], by rwa [memReadBytes_length], h4⟩, rfl⟩, _,
      ⟨?_, rfl⟩, rfl⟩
    simp only [withChecksum_length, dataBody_length, memReadBytes_length, Params.maxFrameLen, overhead]
    omega

/-- Everything RETX_TIMER can do (R87). -/
theorem retxTimer_cases (P : Params) (s : State) :
    (s.sendLen ≠ 0#8 ∧ s.txSent = true ∧ s.txDue = false ∧ s.txSrc ≠ .data ∧ P.txTimeoutMs ≤ (elapsed s).toNat
      ∧ retxTimer P s = { s with txDue := true })
    ∨ (¬(s.sendLen ≠ 0#8 ∧ s.txSent = true ∧ s.txDue = false ∧ s.txSrc ≠ .data
          ∧ P.txTimeoutMs ≤ (elapsed s).toNat) ∧ retxTimer P s = s) := by
  unfold retxTimer
  split
  · next h => exact .inl ⟨h.1, h.2.1, h.2.2.1, h.2.2.2.1, h.2.2.2.2, rfl⟩
  · next h => exact .inr ⟨h, rfl⟩

/-- The send buffer as a data frame's start leaves it (R88): the sequence byte refreshed, then the checksum recomputed. -/
def refreshedSendBuf (P : Params) (s : State) : Memory :=
  memWrite (memWrite s.sendBuf 1 (seqByte s.seqCur s.seqLastSeen)) (s.sendLen.toNat - 1)
    (P.cs (memReadBytes (memWrite s.sendBuf 1 (seqByte s.seqCur s.seqLastSeen)) 0 (s.sendLen.toNat - 1)))

/-- Everything the start of a data frame does when it answers (R88). -/
theorem startData_eq_ok {P : Params} {s t : State} :
    startData P s = .ok t ↔
      s.sendLen ≠ 0#8 ∧ s.sendLen.toNat ≤ P.maxFrameLen ∧ t =
        { s with
          sendBuf := refreshedSendBuf P s
          txSrc := .data
          txIdx := 0#8
          txDue := false
          txSent := true
          lastSend := s.nowReg
          ackOwed := false } := by
  unfold startData
  split
  · next h => simp [h]
  · next h =>
    have hpos : s.sendLen.toNat ≠ 0 := fun e => h (BitVec.eq_of_toNat_eq (by simpa using e))
    have hmax : 2 ≤ P.maxFrameLen := by unfold Params.maxFrameLen overhead; omega
    simp only [run_bind_eq_ok, load_eq_ok, store_eq_ok, areaSize, areaMem_sendBuf, setAreaMem_at_sendBuf,
      List.length_singleton]
    constructor
    · rintro ⟨_, ⟨h1, rfl⟩, _, ⟨h2, rfl⟩, _, ⟨h3, rfl⟩, e⟩
      exact ⟨h, by simp only at h3; omega, (Except.ok.inj e).symm⟩
    · rintro ⟨-, hle, rfl⟩
      exact ⟨_, ⟨by omega, rfl⟩, _, ⟨by simp only; omega, rfl⟩, _, ⟨by simp only; omega, rfl⟩, rfl⟩

/-- The start of an ACK-only frame always answers (R88). -/
theorem startAck_eq (P : Params) (s : State) :
    startAck P s = .ok
      { s with
        ackBuf := memWriteBytes s.ackBuf 0 (encodeAck P s.seqLastSeen)
        txSrc := .ack
        txIdx := 0#8
        ackOwed := false } := rfl

/-- Everything the index's advance can do (R88): inside the frame, at its end, at its end with a release. -/
theorem txAdvance_cases (n : Byte) (s : State) :
    (s.txIdx + 1#8 ≠ n ∧ txAdvance n s = { s with txIdx := s.txIdx + 1#8 })
    ∨ (s.txIdx + 1#8 = n ∧ ¬(s.txSrc = .data ∧ s.txRel = true)
        ∧ txAdvance n s = { s with txSrc := .idle, txIdx := 0#8 })
    ∨ (s.txIdx + 1#8 = n ∧ s.txSrc = .data ∧ s.txRel = true
        ∧ txAdvance n s =
          { s with
            txSrc := .idle
            txIdx := 0#8
            sendLen := 0#8
            txSent := false
            txDue := false
            txRel := false
            seqCur := nextSeq s.seqCur }) := by
  unfold txAdvance
  split
  · next h =>
    split
    · next hr => exact .inr (.inr ⟨h, hr.1, hr.2, rfl⟩)
    · next hr => exact .inr (.inl ⟨h, hr, rfl⟩)
  · next h => exact .inl ⟨h, rfl⟩

/-- Everything sending the next byte does when it answers (R88). -/
theorem txEmit_eq_ok {P : Params} {s t : State} :
    txEmit P s = .ok t ↔
      if s.txSrc = .data then
        s.txIdx.toNat < P.maxFrameLen
          ∧ t = respond [memRead s.sendBuf s.txIdx.toNat] (txAdvance s.sendLen s)
      else s.txIdx.toNat < 3 ∧ t = respond [memRead s.ackBuf s.txIdx.toNat] (txAdvance 3#8 s) := by
  unfold txEmit
  split
  · next hs =>
    rw [if_pos hs]
    simp only [run_bind_eq_ok, loadAt_eq_ok, areaSize, areaMem_sendBuf]
    constructor
    · rintro ⟨_, ⟨h, rfl⟩, e⟩
      exact ⟨h, (Except.ok.inj e).symm⟩
    · rintro ⟨h, rfl⟩
      exact ⟨_, ⟨h, rfl⟩, rfl⟩
  all_goals
    next hs =>
    rw [if_neg (by rw [hs]; decide)]
    simp only [run_bind_eq_ok, loadAt_eq_ok, areaSize, areaMem_ackBuf]
    constructor
    · rintro ⟨_, ⟨h, rfl⟩, e⟩
      exact ⟨h, (Except.ok.inj e).symm⟩
    · rintro ⟨h, rfl⟩
      exact ⟨_, ⟨h, rfl⟩, rfl⟩

/-- Everything TX_BYTE can do when it answers (R88): the next byte of the frame under way, the start of a due data frame,
the start of an owed ACK, or the idle filler. -/
theorem txByteWith_cases {P : Params} {s t : State} (h : txByteWith P s = .ok t) :
    (s.txSrc ≠ .idle ∧ txEmit P s = .ok t)
    ∨ (s.txSrc = .idle ∧ s.txDue = true ∧ ∃ u, startData P s = .ok u ∧ txEmit P u = .ok t)
    ∨ (s.txSrc = .idle ∧ s.txDue = false ∧ s.ackOwed = true ∧ ∃ u, startAck P s = .ok u ∧ txEmit P u = .ok t)
    ∨ (s.txSrc = .idle ∧ s.txDue = false ∧ s.ackOwed = false ∧ t = respond [0#8] s) := by
  unfold txByteWith at h
  split at h
  · next hs => exact .inl ⟨by rw [hs]; decide, h⟩
  · next hs => exact .inl ⟨by rw [hs]; decide, h⟩
  · next hs =>
    split at h
    · next hd => exact .inr (.inl ⟨hs, hd, run_bind_eq_ok.1 h⟩)
    · next hd =>
      rw [Bool.not_eq_true] at hd
      split at h
      · next ha => exact .inr (.inr (.inl ⟨hs, hd, ha, run_bind_eq_ok.1 h⟩))
      · next ha => exact .inr (.inr (.inr ⟨hs, hd, by simpa using ha, (Except.ok.inj h).symm⟩))

/-! ## DRAIN -/

/-- Everything DRAIN does when it answers (R104): nothing waits, or the payload is handed over and the mailbox emptied. -/
theorem drainWith_eq_ok {P : Params} {s t : State} :
    drainWith P s = .ok t ↔
      (s.slotRxLen = 0#8 ∧ t = respond [0#8] s)
      ∨ (s.slotRxLen ≠ 0#8 ∧ s.slotRxLen.toNat ≤ P.maxMsgLen
        ∧ t = respond (s.slotRxLen :: memReadBytes s.slotRx 0 s.slotRxLen.toNat) (emptySlotRx P s)) := by
  unfold drainWith
  split
  · next h => simp [h, eq_comm]
  · next h =>
    simp only [run_bind_eq_ok, load_eq_ok, areaSize, areaMem_slotRx]
    constructor
    · rintro ⟨_, ⟨hl, rfl⟩, e⟩
      exact .inr ⟨h, hl, (Except.ok.inj e).symm⟩
    · rintro (⟨h0, -⟩ | ⟨-, hl, rfl⟩)
      · exact absurd h0 h
      · exact ⟨_, ⟨hl, rfl⟩, rfl⟩

end Sys2Proof.Machine
end

