-- ==== Sys2Proof/Tests/Slice0.lean ====
section
/-! SUPPORT. Tests of this model. The expected values are those of spec/95_test_vectors.md (named V-...), of the encoding
tables of spec/30_encoding.md, or worked out by hand from the rule named; they use the test instances TI and TI16 of R10.
After them, a witness for the hypotheses of every statement of Certificates/Slice0/Obligations.lean that has some. -/

namespace Sys2Proof.Tests

open Sys2Proof.Machine

/-- The reset state under TI. -/
def ti : State := State.resetWith testParams

/-- One field of a run's result, where it gives one. -/
def field {α : Type} (x : Run State) (f : State → α) : Option α := x.toOption.map f

/-- The state an outcome goes on with, where it does. -/
def after : Host.Outcome State Fault Refusal → Option State
  | .next t => some t
  | .fault _ => none
  | .refused _ => none

/-! ## Well-formedness: an ill-formed term for each check -/

theorem test_wf_submit_256 : Instr.wf testParams (.submit (List.replicate 256 0)) = false := by decide +kernel
theorem test_wf_invalid_assigned : Instr.wf testParams (.invalid 0x0A) = false := by decide
theorem test_wf_wdata_empty : Instr.wf testParams (.wData 1 0 [] 0) = false := by decide
theorem test_wf_wdata_81 : Instr.wf testParams (.wData 1 0 (List.replicate 81 0) 0) = false := by decide
theorem test_wf_badlen_idle : Instr.wf testParams (.wBadlen 0x00) = false := by decide
theorem test_wf_badlen_ack : Instr.wf testParams (.wBadlen 0x03) = false := by decide
theorem test_wf_badlen_data : Instr.wf testParams (.wBadlen 0x53) = false := by decide

/-! ## Decoding: each constructor from bytes written out from R61, R63 and R54 to R57 -/

theorem test_decode_reset : decodeCommand [0x01, 0x02] = .ok (.reset, [0x02]) := rfl
theorem test_decode_tick : decodeCommand [0x02, 0x69, 0x00, 0x00, 0x80] = .ok (.tick 0x80000069, []) := rfl
theorem test_decode_rx_byte : decodeCommand [0x03, 0xAA] = .ok (.rxByte 0xAA, []) := rfl
theorem test_decode_tx_byte : decodeCommand [0x04, 0x04] = .ok (.txByte, [0x04]) := rfl
theorem test_decode_submit : decodeCommand [0x05, 0x02, 0x01, 0x02, 0x06] = .ok (.submit [0x01, 0x02], [0x06]) := rfl
theorem test_decode_drain : decodeCommand [0x06] = .ok (.drain, []) := rfl
theorem test_decode_read_reg : decodeCommand [0x07, 0x0F] = .ok (.readReg 0x0F, []) := rfl
theorem test_decode_set_baud : decodeCommand [0x08, 0xA0, 0x86, 0x01, 0x00] = .ok (.setBaud 100000, []) := rfl
theorem test_decode_set_dyn_config :
    decodeCommand [0x09, 0x07, 0x40, 0x4B, 0x4C, 0x00] = .ok (.setDynConfig 7 5000000, []) := rfl
theorem test_decode_propose_baud : decodeCommand [0x0A, 0x40, 0x42, 0x0F, 0x00] = .ok (.proposeBaud 1000000, []) := rfl
theorem test_decode_invalid_0b : decodeCommand [0x0B, 0x07, 0x00] = .ok (.invalid 0x0B, [0x07, 0x00]) := rfl
theorem test_decode_invalid_00 : decodeCommand [0x00] = .ok (.invalid 0x00, []) := rfl
theorem test_decode_invalid_ff : decodeCommand [0xFF] = .ok (.invalid 0xFF, []) := rfl
theorem test_decode_truncated : decodeCommand [0x05, 0x02, 0x01] = .error (.truncated "SUBMIT") := rfl
theorem test_decode_w_idle : decodeWire testParams [0x00, 0x03] = .ok (.wIdle, [0x03]) := rfl
theorem test_decode_w_ack : decodeWire testParams [0x03, 0x21, 0x4E, 0x00] = .ok (.wAck 2 1 0x4E, [0x00]) := rfl
theorem test_decode_w_data : decodeWire testParams [0x05, 0x1F, 0xAA, 0xBB, 0x0D] = .ok (.wData 1 15 [0xAA, 0xBB] 0x0D, []) := rfl
theorem test_decode_w_badlen : decodeWire testParams [0x54, 0x00] = .ok (.wBadlen 0x54, [0x00]) := rfl
theorem test_decode_w_truncated : decodeWire testParams [0x53, 0x10] = .error (.truncated "W_DATA") := rfl

/-- A table word's byte 0 is its lowest: SET_DYN_CONFIG with `en` = 7 and `min` = 0x01020304. -/
theorem test_decode_table_word : decodeTableWord 48 0x010203040709 = some (.setDynConfig 7 0x01020304) := by decide +kernel

/-- Operand bytes the table gives no bits are 0: SUBMIT of no bytes. -/
theorem test_decode_table_word_short : decodeTableWord 8 0x05 = some (.submit []) := by decide +kernel

/-! ## Parameters -/

/-- R7, D6: a set that names no RB_SIZE has the default; TI16 names its own (R10). -/
theorem test_rb_size_default : (testParams.rbSize, testParams16.rbSize) = (1024, 16) := by decide

/-! ## Frame codec -/

/-- R57 at the edges of its ranges under TI. -/
theorem test_len_class :
    [0x00, 0x01, 0x02, 0x03, 0x04, 0x53, 0x54, 0xFF].map (lenClass testParams) =
      [.idle, .badlen, .badlen, .ack, .data, .data, .badlen, .badlen] := by decide

/-- V-C3 -/
theorem test_encode_data :
    (encodeData testParams [0x01, 0x02, 0x03] 2 1).toOption = some [0x06, 0x21, 0x01, 0x02, 0x03, 0xD4] := by decide

/-- V-C10 -/
theorem test_encode_ack : encodeAck testParams 15 = [0x03, 0x0F, 0x12] := by decide

/-- V-C15, V-C19, V-C20 -/
theorem test_decode_frame :
    [decodeFrame testParams 0x03 [0x01, 0x00], decodeFrame testParams 0x53 [0x10],
     decodeFrame testParams 0x04 [0x00, 0x11, 0x02]] =
      [.checksumError .ack, .incomplete, .okData 0 0 [0x11]] := by decide

/-! ## One step of each instruction -/

/-- V-H6: after RESET the numbers, a counter and a rate read as at reset. -/
theorem test_reset :
    let t := resetState testParams { ti with seqCur := 2, errFrame := 1, baudCfg := 500000 }
    (regSeq t, t.errFrame, t.baudCfg) = (0x01, 0, 1400000) := by decide

/-- A frame last started at 100, as in V-T3. -/
def sentAt100 : State := { ti with sendLen := 4, txSent := true, lastSend := 100 }

/-- V-T3: elapsed 4, then elapsed 5. -/
theorem test_tick_timer :
    (field (tickWith testParams 104 sentAt100) (regStatus testParams),
     field (tickWith testParams 105 sentAt100) (regStatus testParams)) = (some 0x206, some 0x606) := by decide +kernel

/-- R102's example: `submit [0xAA]`, then `tick 0`: send_len 4, the frame `04 10 AA 35`, STATUS 0x406. -/
theorem test_tick_frames :
    field (tickWith testParams 0 { ti with slotTx := [(0, 0xAA)], slotTxLen := 1 })
      (fun t => (memReadBytes t.sendBuf 0 4, t.sendLen, regStatus testParams t)) =
      some ([0x04, 0x10, 0xAA, 0x35], 4, 0x406) := by decide +kernel

/-- V-R12 under TI16: the 17th byte overflows. -/
theorem test_rx_byte_overflow :
    let t := rxByteWith testParams16 0xFF { ti with rbUsed := 16 }
    (t.rbUsed, t.rbHead, t.errOverflow, t.events) = (16, 1, 1, [.overflowError]) := by decide

/-- V-R17's overflow: the stalled frame's length byte is dropped, the candidate abandoned. -/
theorem test_rx_byte_overflow_stalled :
    let t := rxByteWith testParams16 0x00 { ti with rbUsed := 16, rxState := .frameComplete, rxLen := 4, slotRxLen := 1 }
    (regStatus testParams16 t, t.rxLen) = (0x001, 0) := by decide

/-- V-T7: a retransmission carries the fresh ACKN 1 and a new checksum. -/
theorem test_tx_byte_refreshes :
    field (txByteWith testParams
        { ti with sendBuf := [(0, 0x04), (1, 0x10), (2, 0x22), (3, 0x24)], sendLen := 4, txSent := true, txDue := true,
                  seqLastSeen := 1, nowReg := 5 })
      (fun t => (t.out, memReadBytes t.sendBuf 0 4, t.lastSend)) =
      some ([0x04], [0x04, 0x11, 0x22, 0x20], 5) := by decide

/-- PROG3 row 13: the last byte of a frame whose ACK has come releases it. -/
theorem test_tx_byte_releases :
    field (txByteWith testParams
        { ti with sendBuf := [(4, 0xD0)], sendLen := 5, txSent := true, txSrc := .data, txIdx := 4, txRel := true })
      (fun t => (t.out, regSeq t, regStatus testParams t)) = some ([0xD0], 0x02, 0) := by decide

/-- V-T2: an empty payload. -/
theorem test_submit_length : field (submitWith testParams [] ti) (·.out) = some [0x02] := by decide

/-- V-T1: the first and the second message. -/
theorem test_submit_busy :
    field (submitWith testParams [0x01] ti >>= submitWith testParams [0x02])
      (fun t => (t.out, memReadBytes t.slotTx 0 1, t.msgFromBrick)) = some ([0x00, 0x01], [0x01], 1) := by decide

/-- V-R15, V-H4: the waiting payload, then nothing. -/
theorem test_drain :
    field (drainWith testParams { ti with slotRx := [(0, 0x01)], slotRxLen := 1 } >>= drainWith testParams)
      (fun t => (t.out, t.slotRxLen)) = some ([0x01, 0x01, 0x00], 0) := by decide

/-- V-R6: LENGTHS 0x53000000 and STATUS 0x020 of a candidate that waits. -/
theorem test_read_reg_lengths :
    (readRegWith testParams 0x0F { ti with rxState := .accumulating, rxLen := 0x53, rbUsed := 2 }).out =
      [0x00, 0x00, 0x00, 0x00, 0x53] := by decide

/-- V-H3, and the last assigned register (R30): NOW. -/
theorem test_read_reg_edges :
    ((readRegWith testParams 0x12 ti).out, (readRegWith testParams 0x11 { ti with nowReg := 7 }).out) =
      ([0x03, 0x00, 0x00, 0x00, 0x00], [0x00, 0x07, 0x00, 0x00, 0x00]) := by decide

/-- V-B1: both clamps; in dynamic mode nothing is pending. -/
theorem test_set_baud_clamps :
    ((after (execSetBaud 3000000 ti)).map (fun t => (t.out, t.baudCfg, t.baudNew)),
     (after (execSetBaud 100000 ti)).map (fun t => (t.baudCfg, t.baudChange))) =
      (some ([0x00], 2000000, 1400000), some (400000, false)) := by decide

/-- V-B3; V-B2's first row. -/
theorem test_set_dyn_config :
    ((after (execSetDynConfig 7 5000000 ti)).map (fun t => (t.dynEnable, t.dynMin, t.baudChange)),
     (after (execSetDynConfig 0 0 ti)).map (fun t => (t.dynEnable, t.dynMin, t.baudChange))) =
      (some (true, 2000000, false), some (false, 400000, true)) := by decide

/-- V-B5: not below the floor; V-B4: ignored in fixed mode. -/
theorem test_propose_baud :
    ((after (execProposeBaud 500000 { ti with dynMin := 600000 })).map (fun t => (t.baudNew, t.baudChange)),
     (after (execProposeBaud 800000 { ti with dynEnable := false })).map (fun t => (t.out, t.baudNew))) =
      (some (600000, true), some ([0x04], 1400000)) := by decide

/-- V-H2 -/
theorem test_invalid : (after (execInvalid 0xFF ti)).map (fun t => (t.out, t.errFrame)) = some ([0x03], 0) := by decide

/-- V-R11: the zero run saturates. -/
theorem test_w_idle_saturates :
    field (receiveUnit testParams [0x00] { ti with zeroRun := 0xFFFFFFFF }) (fun t => (t.zeroRun, t.rbUsed)) =
      some (0xFFFFFFFF, 0) := by decide

/-- V-S2: released by an ACK frame with OWN nibble 2. -/
theorem test_w_ack_releases :
    field (receiveUnit testParams [0x03, 0x21, 0x4E] sentAt100) (fun t => (t.seqCur, regStatus testParams t)) =
      some (2, 0) := by decide +kernel

/-- V-R2: a bad checksum, then `01` is BADLEN and `00` idle. -/
theorem test_w_ack_corrupt :
    field (receiveUnit testParams [0x03, 0x01, 0x00] ti)
      (fun t => (t.errAckChecksum, t.errFrame, t.zeroRun, t.rbUsed)) = some (1, 1, 1, 0) := by decide +kernel

/-- V-R1 -/
theorem test_w_data_delivers :
    field (receiveUnit testParams [0x04, 0x10, 0xAA, 0x35] ti)
      (fun t => (memReadBytes t.slotRx 0 1, t.seqLastSeen, t.msgFromBricklet, regStatus testParams t)) =
      some ([0xAA], 1, 1, 0x009) := by decide +kernel

/-- V-S1 -/
theorem test_w_data_reserved :
    field (receiveUnit testParams [0x04, 0x00, 0x11, 0x02] ti)
      (fun t => (t.errFrame, t.slotRxLen, t.ackOwed, t.events)) = some (1, 0, false, [.frameErrorSeq0]) := by
  decide +kernel

/-- V-R5 -/
theorem test_w_badlen :
    field (receiveUnit testParams [0x54] ti) (fun t => (t.errFrame, t.rbUsed, t.events)) =
      some (1, 0, [.frameErrorBadlen]) := by decide

/-- R106 (V-H5): a step takes one command off the stream and runs it. -/
theorem test_step_invalid :
    (after (step { State.reset with cmdIn := [0x0B, 0x07, 0x00] })).map (fun t => (t.cmdIn, t.out)) =
      some ([0x07, 0x00], [0x03]) := by decide +kernel

/-- R106: a stream that ends inside a command is refused. -/
theorem test_step_truncated :
    step { State.reset with cmdIn := [0x02, 0x00] } = .refused (.truncatedCommand "TICK") := rfl

/-- The reset state's memory is in canonical form. -/
theorem test_reset_memory_wf : ∀ a, (areaMem State.reset a).wf := by intro a; cases a <;> exact memory_wf_nil

/-! ## Witnesses: states that meet the hypotheses of the statements -/

theorem four_le_maxFrameLen : 4 ≤ Config.params.maxFrameLen := by
  have : Config.params.minMsgLen ≤ Config.params.maxMsgLen := Config.params.min_le_max
  have h1 : Config.params.minMsgLen = 1 := rfl
  unfold Params.maxFrameLen overhead
  omega

theorem one_le_maxMsgLen : 1 ≤ Config.params.maxMsgLen := Config.params.min_le_max

/-- A state at reset but for its transmit side, lengths, ring count and numbers meets the invariant, when those do. -/
theorem inv_of {s : State} (wf : ∀ a, (areaMem s a).wf) (bounded : ∀ a, ∀ c ∈ areaMem s a, c.1 < areaSize Config.params a)
    (ring : s.rbHead = 0 ∧ s.rbUsed ≤ Config.params.rbSize)
    (rx : (s.rxState = .seeking → s.rxLen = 0#8)
      ∧ (s.rxState = .accumulating → 1 ≤ s.rbUsed ∧ s.rxLen = 4#8 ∧ memRead s.rb 0 = 4#8)
      ∧ (s.rxState = .frameComplete → 4 ≤ s.rbUsed ∧ s.rxLen = 4#8 ∧ memRead s.rb 0 = 4#8))
    (lengths : (s.slotTxLen = 0#8 ∨ s.slotTxLen = 1#8) ∧ (s.slotRxLen = 0#8 ∨ s.slotRxLen = 1#8)
      ∧ (s.sendLen = 0#8 ∨ s.sendLen = 4#8) ∧ (s.slotTxLen ≠ 0#8 → s.sendLen = 0#8))
    (tx : (s.txSrc = .data → s.sendLen ≠ 0#8 ∧ s.txSent = true) ∧ (s.txRel = true → s.txSrc = .data)
      ∧ (s.txDue = true → s.sendLen ≠ 0#8 ∧ s.txSrc ≠ .data) ∧ (s.txSrc = .idle → s.txIdx = 0#8)
      ∧ (s.txSrc = .data → s.txIdx.toNat < s.sendLen.toNat) ∧ (s.txSrc = .ack → s.txIdx.toNat < 3) ∧ s.seqCur ≠ 0#4)
    (rates : s.baudCfg = Config.params.baudReset ∧ s.baudCurrent = Config.params.baudReset
      ∧ s.baudNew = Config.params.baudReset ∧ s.dynMin = Config.params.dynMinReset) : Inv Config.params s := by
  have hm := four_le_maxFrameLen
  have h1 := one_le_maxMsgLen
  have hmin : Config.params.minMsgLen = 1 := rfl
  have hoff : rbOffset Config.params s 0 = 0 := by simp [rbOffset, ring.1]
  have h4 : lenClass Config.params 4#8 = .data := by
    rcases lenClass_cases Config.params 4#8 with ⟨-, h⟩ | ⟨-, h⟩ | ⟨-, h⟩ | ⟨h, -⟩
    · exact absurd h (by decide)
    · simp only [show (4#8).toNat = 4 from rfl] at h
      omega
    · exact absurd h (by decide)
    · exact h
  have one : ∀ b : Byte, (b = 0#8 ∨ b = 1#8) → ZeroOrIn Config.params.minMsgLen Config.params.maxMsgLen b := by
    rintro b (rfl | rfl)
    · exact .inl rfl
    · exact .inr ⟨by rw [hmin]; decide, h1⟩
  exact
    { mem_wf := wf
      mem_bounded := bounded
      rbHead_lt := by rw [ring.1]; exact rbSize_pos _
      rbUsed_le := ring.2
      slotTxLen_range := one _ lengths.1
      slotRxLen_range := one _ lengths.2.1
      sendLen_range := by
        rcases lengths.2.2.1 with h | h
        · exact .inl h
        · exact .inr ⟨by rw [h, hmin]; decide, by rw [h]; exact hm⟩
      data_sent := tx.1
      rel_data := tx.2.1
      due_waiting := tx.2.2.1
      idle_idx := tx.2.2.2.1
      data_idx := tx.2.2.2.2.1
      ack_idx := tx.2.2.2.2.2.1
      seqCur_pos := tx.2.2.2.2.2.2
      seeking_len := rx.1
      accumulating_candidate := fun h => by
        obtain ⟨a, b, c⟩ := rx.2.1 h
        exact ⟨a, by rw [hoff, b, c], .inr (by rw [b]; exact h4)⟩
      complete_candidate := fun h => by
        obtain ⟨a, b, c⟩ := rx.2.2 h
        exact ⟨by rw [b]; exact a, by rw [hoff, b, c], by rw [b]; exact h4⟩
      one_message := lengths.2.2.2
      baudCfg_inRange := by rw [rates.1]; exact Config.params.baudReset_inRange
      baudCurrent_inRange := by rw [rates.2.1]; exact Config.params.baudReset_inRange
      baudNew_inRange := by rw [rates.2.2.1]; exact Config.params.baudReset_inRange
      dynMin_inRange := by rw [rates.2.2.2]; exact Config.params.dynMinReset_inRange }

/-- The same for states whose areas list nothing, with the scanner at rest. -/
theorem inv_quiet {s : State} (areas : ∀ a, areaMem s a = []) (ring : s.rbHead = 0 ∧ s.rbUsed ≤ Config.params.rbSize)
    (rx : s.rxState = .seeking ∧ s.rxLen = 0#8)
    (lengths : (s.slotTxLen = 0#8 ∨ s.slotTxLen = 1#8) ∧ (s.slotRxLen = 0#8 ∨ s.slotRxLen = 1#8)
      ∧ (s.sendLen = 0#8 ∨ s.sendLen = 4#8) ∧ (s.slotTxLen ≠ 0#8 → s.sendLen = 0#8))
    (tx : (s.txSrc = .data → s.sendLen ≠ 0#8 ∧ s.txSent = true) ∧ (s.txRel = true → s.txSrc = .data)
      ∧ (s.txDue = true → s.sendLen ≠ 0#8 ∧ s.txSrc ≠ .data) ∧ (s.txSrc = .idle → s.txIdx = 0#8)
      ∧ (s.txSrc = .data → s.txIdx.toNat < s.sendLen.toNat) ∧ (s.txSrc = .ack → s.txIdx.toNat < 3) ∧ s.seqCur ≠ 0#4)
    (rates : s.baudCfg = Config.params.baudReset ∧ s.baudCurrent = Config.params.baudReset
      ∧ s.baudNew = Config.params.baudReset ∧ s.dynMin = Config.params.dynMinReset) : Inv Config.params s :=
  inv_of (fun a => by rw [areas a]; exact memory_wf_nil) (fun a => by rw [areas a]; simp) ring
    ⟨fun _ => rx.2, fun h => (by rw [rx.1] at h; cases h), fun h => (by rw [rx.1] at h; cases h)⟩ lengths tx rates

/-- A frame of four bytes is due. -/
def dueState : State := { State.reset with sendLen := 4, txDue := true }
/-- A frame of four bytes has been sent once and waits for its ACK. -/
def sentState : State := { State.reset with sendLen := 4, txSent := true }
/-- Byte 1 of a data frame is next. -/
def dataState : State := { State.reset with sendLen := 4, txSent := true, txSrc := .data, txIdx := 1 }
/-- The last byte of a data frame is next. -/
def lastByteState : State := { dataState with txIdx := 3 }
/-- The last byte of a data frame is next, and its ACK has come. -/
def releasingState : State := { lastByteState with txRel := true }
/-- Byte 1 of an ACK frame is next. -/
def ackState : State := { State.reset with txSrc := .ack, txIdx := 1 }
/-- The last byte of an ACK frame is next. -/
def lastAckByteState : State := { ackState with txIdx := 2 }
/-- An ACK is owed. -/
def owedState : State := { State.reset with ackOwed := true }
/-- A message of one byte waits in the transmit mailbox. -/
def submittedState : State := { State.reset with slotTxLen := 1 }
/-- A payload of one byte waits in the receive mailbox. -/
def mailState : State := { State.reset with slotRxLen := 1 }
/-- The ring is full. -/
def fullState : State := { State.reset with rbUsed := Config.params.rbSize }
/-- The data frame of R54 with OWN 1, ACKN 0 and the payload `[0]`. -/
def frame1 : List Byte := withChecksum Config.params (dataBody [0x00] 1 0)
/-- That frame is stalled before a full receive mailbox. -/
def stalledState : State :=
  { State.reset with
    rb := memWriteBytes [] 0 frame1, rbUsed := 4, rxState := .frameComplete, rxLen := 4, slotRxLen := 1 }
/-- Only that frame's length byte has come. -/
def waitingState : State :=
  { State.reset with rb := [(0, 0x04)], rbUsed := 1, rxState := .accumulating, rxLen := 4 }

theorem inv_reset : Inv Config.params State.reset :=
  inv_quiet (fun a => by cases a <;> rfl) ⟨rfl, Nat.zero_le _⟩ ⟨rfl, rfl⟩ (by decide) (by decide) ⟨rfl, rfl, rfl, rfl⟩

theorem inv_due : Inv Config.params dueState :=
  inv_quiet (fun a => by cases a <;> rfl) ⟨rfl, Nat.zero_le _⟩ ⟨rfl, rfl⟩ (by decide) (by decide) ⟨rfl, rfl, rfl, rfl⟩

theorem inv_sent : Inv Config.params sentState :=
  inv_quiet (fun a => by cases a <;> rfl) ⟨rfl, Nat.zero_le _⟩ ⟨rfl, rfl⟩ (by decide) (by decide) ⟨rfl, rfl, rfl, rfl⟩

theorem inv_data : Inv Config.params dataState :=
  inv_quiet (fun a => by cases a <;> rfl) ⟨rfl, Nat.zero_le _⟩ ⟨rfl, rfl⟩ (by decide) (by decide) ⟨rfl, rfl, rfl, rfl⟩

theorem inv_lastByte : Inv Config.params lastByteState :=
  inv_quiet (fun a => by cases a <;> rfl) ⟨rfl, Nat.zero_le _⟩ ⟨rfl, rfl⟩ (by decide) (by decide) ⟨rfl, rfl, rfl, rfl⟩

theorem inv_releasing : Inv Config.params releasingState :=
  inv_quiet (fun a => by cases a <;> rfl) ⟨rfl, Nat.zero_le _⟩ ⟨rfl, rfl⟩ (by decide) (by decide) ⟨rfl, rfl, rfl, rfl⟩

theorem inv_ack : Inv Config.params ackState :=
  inv_quiet (fun a => by cases a <;> rfl) ⟨rfl, Nat.zero_le _⟩ ⟨rfl, rfl⟩ (by decide) (by decide) ⟨rfl, rfl, rfl, rfl⟩

theorem inv_lastAckByte : Inv Config.params lastAckByteState :=
  inv_quiet (fun a => by cases a <;> rfl) ⟨rfl, Nat.zero_le _⟩ ⟨rfl, rfl⟩ (by decide) (by decide) ⟨rfl, rfl, rfl, rfl⟩

theorem inv_owed : Inv Config.params owedState :=
  inv_quiet (fun a => by cases a <;> rfl) ⟨rfl, Nat.zero_le _⟩ ⟨rfl, rfl⟩ (by decide) (by decide) ⟨rfl, rfl, rfl, rfl⟩

theorem inv_submitted : Inv Config.params submittedState :=
  inv_quiet (fun a => by cases a <;> rfl) ⟨rfl, Nat.zero_le _⟩ ⟨rfl, rfl⟩ (by decide) (by decide) ⟨rfl, rfl, rfl, rfl⟩

theorem inv_mail : Inv Config.params mailState :=
  inv_quiet (fun a => by cases a <;> rfl) ⟨rfl, Nat.zero_le _⟩ ⟨rfl, rfl⟩ (by decide) (by decide) ⟨rfl, rfl, rfl, rfl⟩

theorem inv_full : Inv Config.params fullState :=
  inv_quiet (fun a => by cases a <;> rfl) ⟨rfl, Nat.le_refl _⟩ ⟨rfl, rfl⟩ (by decide) (by decide) ⟨rfl, rfl, rfl, rfl⟩

/-- The same for states whose ring alone lists something: a candidate of four bytes, complete. -/
theorem inv_candidate {s : State} {p : Byte} {own ackn : Nibble}
    (rb : s.rb = memWriteBytes [] 0 (withChecksum Config.params (dataBody [p] own ackn)))
    (areas : s.scratch ++ s.sendBuf ++ s.ackBuf ++ s.slotTx ++ s.slotRx = [])
    (ring : s.rbHead = 0 ∧ s.rbUsed = 4) (rx : s.rxState = .frameComplete ∧ s.rxLen = 4#8)
    (rates : s.baudCfg = Config.params.baudReset ∧ s.baudCurrent = Config.params.baudReset
      ∧ s.baudNew = Config.params.baudReset ∧ s.dynMin = Config.params.dynMinReset)
    (lengths : (s.slotTxLen = 0#8 ∨ s.slotTxLen = 1#8) ∧ (s.slotRxLen = 0#8 ∨ s.slotRxLen = 1#8)
      ∧ (s.sendLen = 0#8 ∨ s.sendLen = 4#8) ∧ (s.slotTxLen ≠ 0#8 → s.sendLen = 0#8))
    (tx : (s.txSrc = .data → s.sendLen ≠ 0#8 ∧ s.txSent = true) ∧ (s.txRel = true → s.txSrc = .data)
      ∧ (s.txDue = true → s.sendLen ≠ 0#8 ∧ s.txSrc ≠ .data) ∧ (s.txSrc = .idle → s.txIdx = 0#8)
      ∧ (s.txSrc = .data → s.txIdx.toNat < s.sendLen.toNat) ∧ (s.txSrc = .ack → s.txIdx.toNat < 3)
      ∧ s.seqCur ≠ 0#4) : Inv Config.params s := by
  simp only [List.append_eq_nil_iff] at areas
  obtain ⟨⟨⟨⟨h1, h2⟩, h3⟩, h4⟩, h5⟩ := areas
  have hr := four_le_rbSize Config.params
  have other : ∀ a, a ≠ .rb → areaMem s a = [] := by
    intro a ha
    cases a <;> first | assumption | exact absurd rfl ha
  refine inv_of (fun a => ?_) (fun a c hc => ?_) ⟨ring.1, by omega⟩
    ⟨fun h => (by rw [rx.1] at h; cases h), fun h => (by rw [rx.1] at h; cases h), fun _ => ⟨by omega, rx.2, ?_⟩⟩
    lengths tx rates
  · by_cases ha : a = .rb
    · rw [ha, areaMem_rb, rb]
      exact memWriteBytes_wf memory_wf_nil _ _
    · rw [other a ha]
      exact memory_wf_nil
  · by_cases ha : a = .rb
    · rw [ha, areaMem_rb, rb] at hc
      rw [ha]
      rcases mem_memWriteBytes hc with h | h
      · cases h
      · simp only [withChecksum_length, dataBody_length, List.length_singleton] at h
        simp only [areaSize]
        omega
    · rw [other a ha] at hc
      cases hc
  · rw [rb, memRead_memWriteBytes memory_wf_nil]
    rfl

theorem inv_stalled : Inv Config.params stalledState :=
  inv_candidate rfl rfl ⟨rfl, rfl⟩ ⟨rfl, rfl⟩ ⟨rfl, rfl, rfl, rfl⟩ (by decide) (by decide)

theorem inv_waiting : Inv Config.params waitingState :=
  inv_of (fun a => by cases a <;> first | exact memory_wf_nil | exact ⟨by simp [areaMem, waitingState], by simp [areaMem, waitingState, unlistedByte]⟩)
    (fun a c hc => by
      cases a
      case rb =>
        rw [List.mem_singleton.1 hc]
        exact rbSize_pos _
      all_goals cases hc)
    ⟨rfl, by have := four_le_rbSize Config.params; show 1 ≤ _; omega⟩
    ⟨fun h => (by cases h), fun _ => ⟨Nat.le_refl 1, rfl, rfl⟩, fun h => (by cases h)⟩
    (by decide) (by decide) ⟨rfl, rfl, rfl, rfl⟩

/-- The data frame with OWN 1, ACKN 1 and the payload `[0]`. -/
def ackingFrame : List Byte := withChecksum Config.params (dataBody [0x00] 1 1)
/-- A frame numbered 1 has been sent; a frame that acknowledges it waits in the ring, the mailbox empty. -/
def ackedState : State :=
  { sentState with rb := memWriteBytes [] 0 ackingFrame, rbUsed := 4, rxState := .frameComplete, rxLen := 4 }

theorem inv_acked : Inv Config.params ackedState :=
  inv_candidate rfl rfl ⟨rfl, rfl⟩ ⟨rfl, rfl⟩ ⟨rfl, rfl, rfl, rfl⟩ (by decide) (by decide)

/-- The unread bytes of a ring that holds four bytes from its start are those bytes. -/
theorem ringBytes_four {s : State} {f : List Byte} (hf : f.length = 4) (rb : s.rb = memWriteBytes [] 0 f)
    (head : s.rbHead = 0) : ringBytes Config.params 4 s = f := by
  have h4 := four_le_rbSize Config.params
  have e : ringBytes Config.params 4 s = memReadBytes s.rb 0 4 := by
    apply List.map_congr_left
    intro i hi
    have hi' : i < 4 := List.mem_range.1 hi
    rw [rbOffset, head, Nat.mod_eq_of_lt (by omega)]
  rw [e, rb, ← hf]
  exact memReadBytes_memWriteBytes memory_wf_nil 0 f

theorem ringBytes_stalled : ringBytes Config.params 4 stalledState = frame1 := ringBytes_four rfl rfl rfl

theorem stalled_valid : StalledFrameValid Config.params stalledState := fun _ =>
  ⟨0x10#8, [0x00#8, Config.params.cs (dataBody [0x00] 1 0)], ringBytes_stalled, rfl, by decide, by decide⟩

/-! ### Encodings and the codec -/

theorem witness_CommandDecodeEncode : ∀ i : Instr,
    i ∈ [.submit (List.replicate 255 0), .submit [], .invalid 0x00, .invalid 0x0B, .invalid 0xFF, .setDynConfig 7 5] →
      i.isWire = false ∧ i.wf testParams = true := by decide +kernel

theorem witness_WireDecodeEncode : ∀ i : Instr,
    i ∈ [.wIdle, .wAck 15 0 0xFF, .wData 0 15 [0] 0, .wData 1 0 (List.replicate 80 0) 0, .wBadlen 0x01, .wBadlen 0x02,
      .wBadlen 0x54, .wBadlen 0xFF] →
      i.isWire = true ∧ i.wf testParams = true := by decide +kernel

theorem witness_CommandEncodeDecode : ∃ i rest, decodeCommand [0x0A, 0x40, 0x42, 0x0F, 0x00] = .ok (i, rest) :=
  ⟨_, _, test_decode_propose_baud⟩

theorem witness_WireEncodeDecode : ∃ i rest, decodeWire testParams [0x03, 0x21, 0x4E, 0x00] = .ok (i, rest) :=
  ⟨_, _, test_decode_w_ack⟩

theorem witness_StepRunsDecoded :
    decodeCommand { State.reset with cmdIn := [0x06, 0x01] }.cmdIn = .ok (.drain, [0x01])
    ∧ State.reset.cmdIn = []
    ∧ decodeCommand { State.reset with cmdIn := [0x08, 0x00] }.cmdIn = .error (.truncated "SET_BAUD")
    ∧ { State.reset with cmdIn := [0x06] }.cmdIn ≠ [] :=
  ⟨rfl, rfl, rfl, by decide⟩

theorem witness_CodecRoundTrip :
    (testParams.minMsgLen ≤ [0x00#8].length ∧ [0x00#8].length ≤ testParams.maxMsgLen ∧ (15#4) ≠ 0#4)
    ∧ testParams.minMsgLen ≤ (List.replicate 80 0x00#8).length
    ∧ (List.replicate 80 0x00#8).length ≤ testParams.maxMsgLen := by decide

/-- The last byte of `03 01 0E` changed, and byte 1 of `04 10 AA 35`. -/
theorem witness_SingleByteCorruption :
    ((0x0E#8) ≠ 0x0F#8 ∧ [0x01#8].length + ([] : List Byte).length + 2 = (0x03#8).toNat
      ∧ decodeFrame testParams 0x03 ([0x01] ++ 0x0E :: []) = .okAck 1)
    ∧ ((0x10#8) ≠ 0x20#8 ∧ ([] : List Byte).length + [0xAA#8, 0x35#8].length + 2 = (0x04#8).toNat
      ∧ decodeFrame testParams 0x04 ([] ++ 0x10 :: [0xAA, 0x35]) = .okData 1 0 [0xAA]) := by decide

/-- A candidate stands in the ring of TI. -/
def candidate (frame : List Byte) (s : State) : State :=
  { s with
    rb := memWriteBytes [] 0 frame
    rbUsed := frame.length
    rxState := .frameComplete
    rxLen := frame.headD 0#8 }

/-- What the hypotheses of `ScannerAgreesWithDecode` ask of such a state, and what DECODE says of the candidate. -/
def decoded (s : State) : Option Decoded :=
  if s.scratch.wf ∧ s.rxLen.toNat ≤ s.rbUsed
      ∧ (lenClass testParams s.rxLen = .ack ∨ lenClass testParams s.rxLen = .data)
      ∧ s.rxLen = memRead s.rb (rbOffset testParams s 0) then
    some (decodeFrame testParams s.rxLen (ringBytes testParams s.rxLen.toNat s).tail)
  else none

theorem witness_ScannerAgreesWithDecode :
    decoded (candidate [0x03, 0x01, 0x00] ti) = some (.checksumError .ack)
    ∧ decoded (candidate [0x04, 0x10, 0xAA, 0x00] ti) = some (.checksumError .data)
    ∧ decoded (candidate [0x03, 0x01, 0x0E] ti) = some (.okAck 1)
    ∧ decoded (candidate [0x04, 0x10, 0xAA, 0x35] { ti with slotRxLen := 1 }) = some (.okData 1 0 [0xAA])
    ∧ decoded (candidate [0x04, 0x00, 0x11, 0x02] ti) = some (.okData 0 0 [0x11]) := by decide +kernel

/-! ### The ring and TX_BYTE -/

theorem witness_RxBytePushes :
    (Inv Config.params State.reset ∧ State.reset.rbUsed ≠ Config.params.rbSize)
    ∧ (Inv Config.params fullState ∧ fullState.rbUsed = Config.params.rbSize) :=
  ⟨⟨inv_reset, by have := rbSize_pos Config.params; show 0 ≠ _; omega⟩, inv_full, rfl⟩

theorem witness_OverflowLosesOldest :
    Inv Config.params State.reset ∧ Inv Config.params fullState ∧ fullState.rbUsed + [0x00#8].length - Config.params.rbSize = 1 :=
  ⟨inv_reset, inv_full, by show Config.params.rbSize + 1 - _ = 1; omega⟩

theorem witness_TxByteIdleFiller :
    State.reset.txSrc = .idle ∧ State.reset.txDue = false ∧ State.reset.ackOwed = false := ⟨rfl, rfl, rfl⟩

theorem witness_TxByteStartsData :
    Inv Config.params dueState ∧ dueState.txSrc = .idle ∧ dueState.txDue = true := ⟨inv_due, rfl, rfl⟩

theorem witness_TxByteStartsAck :
    Inv Config.params owedState ∧ owedState.txSrc = .idle ∧ owedState.txDue = false ∧ owedState.ackOwed = true :=
  ⟨inv_owed, rfl, rfl, rfl⟩

/-- Inside a data frame, at its end, at its end with a release; inside an ACK frame, at its end. -/
theorem witness_TxByteContinuesFrame :
    (Inv Config.params dataState ∧ dataState.txSrc = .data ∧ dataState.txIdx.toNat + 1 ≠ dataState.sendLen.toNat)
    ∧ (Inv Config.params lastByteState ∧ lastByteState.txSrc = .data
      ∧ lastByteState.txIdx.toNat + 1 = lastByteState.sendLen.toNat ∧ lastByteState.txRel = false)
    ∧ (Inv Config.params releasingState ∧ releasingState.txSrc = .data
      ∧ releasingState.txIdx.toNat + 1 = releasingState.sendLen.toNat ∧ releasingState.txRel = true)
    ∧ (Inv Config.params ackState ∧ ackState.txSrc = .ack ∧ ackState.txIdx.toNat + 1 ≠ 3)
    ∧ (Inv Config.params lastAckByteState ∧ lastAckByteState.txSrc = .ack ∧ lastAckByteState.txIdx.toNat + 1 = 3) :=
  ⟨⟨inv_data, rfl, by decide⟩, ⟨inv_lastByte, rfl, rfl, rfl⟩, ⟨inv_releasing, rfl, rfl, rfl⟩,
    ⟨inv_ack, rfl, by decide⟩, inv_lastAckByte, rfl, rfl⟩

theorem witness_DueFrameIsEmittedWhole :
    Inv Config.params dueState ∧ dueState.txSrc = .idle ∧ dueState.txDue = true := ⟨inv_due, rfl, rfl⟩

/-! ### SUBMIT, DRAIN and the commands that store nothing -/

/-- Both edges of LENGTH, both cases of BUSY, both edges of an accepted length. -/
theorem witness_SubmitRule :
    (([] : List Byte).length < Config.params.minMsgLen
      ∧ Config.params.maxMsgLen < (List.replicate (Config.params.maxMsgLen + 1) 0x00#8).length)
    ∧ (Inv Config.params submittedState ∧ submittedState.slotTxLen ≠ 0#8)
    ∧ (Inv Config.params sentState ∧ sentState.sendLen ≠ 0#8)
    ∧ (Inv Config.params State.reset ∧ State.reset.slotTxLen = 0#8 ∧ State.reset.sendLen = 0#8
      ∧ Config.params.minMsgLen ≤ [0x00#8].length ∧ [0x00#8].length ≤ Config.params.maxMsgLen
      ∧ (List.replicate Config.params.maxMsgLen 0x00#8).length ≤ Config.params.maxMsgLen) :=
  ⟨⟨Nat.zero_lt_one, by simp⟩, ⟨inv_submitted, by decide⟩, ⟨inv_sent, by decide⟩, inv_reset, rfl, rfl, Nat.le_refl 1,
    one_le_maxMsgLen, by simp⟩

theorem ringIdle_reset : RingIdle State.reset := ⟨rfl, rfl, rfl⟩

theorem witness_SubmittedMessageIsTransmitted :
    Inv Config.params State.reset ∧ RingIdle State.reset ∧ State.reset.txSrc = .idle ∧ State.reset.slotTxLen = 0#8
      ∧ State.reset.sendLen = 0#8 ∧ Config.params.minMsgLen ≤ [0x00#8].length
      ∧ [0x00#8].length ≤ Config.params.maxMsgLen :=
  ⟨inv_reset, ringIdle_reset, rfl, rfl, rfl, Nat.le_refl 1, one_le_maxMsgLen⟩

theorem witness_DrainRule :
    (Inv Config.params State.reset ∧ State.reset.slotRxLen = 0#8)
    ∧ (Inv Config.params mailState ∧ mailState.slotRxLen ≠ 0#8) := ⟨⟨inv_reset, rfl⟩, inv_mail, by decide⟩

theorem witness_QuietCommandsStoreNothing : ∀ i : Instr,
    i ∈ [.readReg 0, .setBaud 0, .setDynConfig 0 0, .proposeBaud 0, .invalid 0] → ∃ t, exec i State.reset = .next t := by
  intro i hi
  fin_cases hi <;> exact ⟨_, rfl⟩

/-- That state once a TICK has latched its clock. -/
def ackedAt7 : State := { ackedState with nowReg := 7 }

/-- What a scan makes of the frame that acknowledges: the send buffer released, the ring empty. -/
theorem scan_acked : ∃ t, scan Config.params ackedAt7 = .ok t ∧ t.sendLen = 0#8 ∧ t.slotTxLen = 0#8 := by
  obtain ⟨u, hi, h1, h2, h3⟩ : ∃ u, inboundData Config.params 1#4 [0x00#8]
      (afterAck Config.params 4#8 0x11#8 (candidateState Config.params ackedAt7)) = .ok u
      ∧ u.sendLen = 0#8 ∧ u.slotTxLen = 0#8 ∧ u.rbUsed = 0 :=
    ⟨_, (if_neg (by decide)).trans ((if_neg (by decide)).trans (deliver_eq_ok.2 ⟨one_le_maxMsgLen, rfl⟩)), rfl, rfl, rfl⟩
  have hc : consume Config.params 4#8 0x11#8 [0x00#8, Config.params.cs (dataBody [0x00] 1 1)]
      (candidateState Config.params ackedAt7) = .ok u :=
    consume_eq_ok.2 ⟨Nat.le_refl 4, by rw [if_pos (by decide)]; exact hi⟩
  have h := (stepComplete_eq (s := ackedAt7) (len := 4#8) (sq := 0x11#8)
        (tail := [0x00#8, Config.params.cs (dataBody [0x00] 1 1)])
        memory_wf_nil (Nat.le_refl 4) four_le_maxFrameLen (ringBytes_four rfl rfl rfl)).trans
      ((if_neg (not_not.2 rfl)).trans (if_neg (by decide)))
  rw [hc] at h
  refine ⟨seekAgain u, ?_, h1, h2⟩
  show (stepComplete Config.params ackedAt7 >>= _) = _
  rw [h]
  exact if_pos h3

/-- A message in flight under DRAIN, framed by a TICK, released by a TICK, released by the last byte of its frame. -/
theorem witness_OnlyReleaseOrResetEndsAMessage :
    (Inv Config.params submittedState ∧ InFlight submittedState ∧ Instr.drain ≠ .reset
      ∧ ∃ t, exec .drain submittedState = .next t)
    ∧ (Inv Config.params submittedState ∧ InFlight submittedState ∧ Instr.tick 7 ≠ .reset
      ∧ ∃ t, exec (.tick 7) submittedState = .next t ∧ t.slotTxLen = 0#8 ∧ t.sendLen = 4#8)
    ∧ (Inv Config.params ackedState ∧ InFlight ackedState ∧ Instr.tick 7 ≠ .reset
      ∧ ∃ t, exec (.tick 7) ackedState = .next t ∧ t.sendLen = 0#8)
    ∧ (Inv Config.params releasingState ∧ InFlight releasingState ∧ Instr.txByte ≠ .reset
      ∧ ∃ t, exec .txByte releasingState = .next t ∧ t.sendLen = 0#8) := by
  refine ⟨⟨inv_submitted, .inl (by decide), by decide, _, rfl⟩,
    ⟨inv_submitted, .inl (by decide), by decide, ?_⟩, ⟨inv_acked, .inr (by decide), by decide, ?_⟩,
    inv_releasing, .inr (by decide), by decide, ?_⟩
  · obtain ⟨u, h, h1, h2⟩ : ∃ u, frameFromSlot Config.params { submittedState with nowReg := 7 } = .ok u
        ∧ (baudApply u).slotTxLen = 0#8 ∧ (baudApply u).sendLen = 4#8 :=
      ⟨_, frameFromSlot_eq_ok.2 ⟨⟨Nat.le_refl 1, one_le_maxMsgLen, by decide⟩, rfl⟩, rfl, rfl⟩
    refine ⟨baudApply u, ?_, h1, h2⟩
    show runOutcome (frameFromSlot Config.params { submittedState with nowReg := 7 } >>= _) = _
    rw [h]
    rfl
  · obtain ⟨t, ht, h1, h2⟩ := scan_acked
    refine ⟨baudApply (retxTimer Config.params t), ?_, ?_⟩
    · show runOutcome (scan Config.params ackedAt7 >>= _) = _
      rw [ht, run_ok_bind, frameOrTimer, if_neg (fun h => h.2 h2)]
      rfl
    · have hb := baudApply_cases (retxTimer Config.params t)
      have hr := retxTimer_cases Config.params t
      rcases hr with ⟨h, -⟩ | ⟨-, e⟩
      · exact absurd h1 h
      · rw [e] at hb ⊢
        rcases hb with ⟨-, -, e⟩ | ⟨-, e⟩ <;> rw [e] <;> exact h1
  · obtain ⟨t, h, ht⟩ : ∃ t, txEmit Config.params releasingState = .ok t ∧ t.sendLen = 0#8 :=
      ⟨_, txEmit_eq_ok.2 (by
        rw [if_pos (show releasingState.txSrc = .data from rfl)]
        exact ⟨by have := four_le_maxFrameLen; show 3 < _; omega, rfl⟩), rfl⟩
    exact ⟨t, by show runOutcome (txEmit Config.params releasingState) = _; rw [h]; rfl, ht⟩

/-- Every state of the two sequencers stands in STATUS. -/
theorem witness_ReadRegMap_states :
    State.reset.rxState = .seeking ∧ waitingState.rxState = .accumulating ∧ stalledState.rxState = .frameComplete
      ∧ State.reset.txSrc = .idle ∧ dataState.txSrc = .data ∧ ackState.txSrc = .ack := ⟨rfl, rfl, rfl, rfl, rfl, rfl⟩

theorem witness_ReadRegMap :
    0x11 < (0x12#8).toNat ∧ 0x11 < (0xFF#8).toNat ∧ (0x00#8).toNat ≤ 0x11 ∧ (0x11#8).toNat ≤ 0x11
      ∧ State.reset.rbUsed < 2 ^ 32 := ⟨by decide, by decide, by decide, by decide, by show 0 < _; decide⟩

/-- R91 below, at and above its range. -/
theorem witness_SetBaudRule :
    (400000#32).toNat = min (max (0#32).toNat 400000) 2000000
    ∧ (400000#32).toNat = min (max (400000#32).toNat 400000) 2000000
    ∧ (2000000#32).toNat = min (max (2000001#32).toNat 400000) 2000000 := by decide

theorem witness_SetDynConfigRule :
    ((0x00#8) = 0#8 ∧ (400000#32).toNat = min (max (399999#32).toNat 400000) 2000000)
    ∧ ((0xFF#8) ≠ 0#8 ∧ (2000000#32).toNat = min (max (0xFFFFFFFF#32).toNat 400000) 2000000) := by decide

/-- Below the floor and above it, in a state with the floor 600000. -/
theorem witness_ProposeBaudRule :
    let s := { State.reset with dynMin := 600000 }
    (600000#32).toNat = max (min (max (500000#32).toNat 400000) 2000000) s.dynMin.toNat
    ∧ (2000000#32).toNat = max (min (max (2500000#32).toNat 400000) 2000000) s.dynMin.toNat := by decide

theorem witness_BaudCurrentHeldMidFrame :
    ackState.txSrc ≠ .idle ∧ Instr.setBaud 0 ≠ .reset ∧ ∃ t, exec (.setBaud 0) ackState = .next t :=
  ⟨by decide, by decide, _, rfl⟩

/-! ### TICK -/

theorem witness_TickFramesMessage :
    Inv Config.params submittedState
    ∧ scan Config.params { submittedState with nowReg := 7 } = .ok { submittedState with nowReg := 7 }
    ∧ submittedState.sendLen = 0#8 ∧ submittedState.slotTxLen ≠ 0#8 := ⟨inv_submitted, rfl, rfl, by decide⟩

theorem witness_TickRunsTimer :
    Inv Config.params sentState
    ∧ scan Config.params { sentState with nowReg := 7 } = .ok { sentState with nowReg := 7 }
    ∧ ¬(sentState.sendLen = 0#8 ∧ sentState.slotTxLen ≠ 0#8) := ⟨inv_sent, rfl, by decide⟩

/-- A TICK of the reset state latches its clock and does nothing else. -/
theorem tick_reset (now : Word) : exec (.tick now) State.reset = .next { State.reset with nowReg := now } := rfl

/-- A pending rate, at a boundary and inside a frame. -/
theorem witness_TickAppliesBaud :
    (∃ t, exec (.tick 0) { State.reset with baudChange := true } = .next t)
    ∧ ∃ t, exec (.tick 0) { ackState with baudChange := true } = .next t := ⟨⟨_, rfl⟩, _, rfl⟩

theorem witness_SecondTickChangesNothing :
    Inv Config.params State.reset ∧ ∃ t, exec (.tick 7) State.reset = .next t := ⟨inv_reset, _, tick_reset 7⟩

/-- The stalled state once a TICK has latched its clock. -/
def stalledAt7 : State := { stalledState with nowReg := 7 }

/-- The stalled candidate, judged again, stays stalled. -/
theorem stepComplete_stalled :
    stepComplete Config.params stalledAt7 = .ok (.stall (candidateState Config.params stalledAt7)) :=
  (stepComplete_eq (s := stalledAt7) (len := 4#8) (sq := 0x10#8)
      (tail := [0x00#8, Config.params.cs (dataBody [0x00] 1 0)])
      memory_wf_nil (Nat.le_refl 4) four_le_maxFrameLen ringBytes_stalled).trans
    ((if_neg (not_not.2 rfl)).trans (if_pos (by decide)))

/-- Each of the three ways a TICK ends: the ring empty, a candidate too short, a frame stalled. -/
theorem witness_TickScansToTheEnd :
    (Inv Config.params State.reset ∧ ∃ t, exec (.tick 7) State.reset = .next t ∧ t.rxState = .seeking)
    ∧ (Inv Config.params waitingState ∧ ∃ t, exec (.tick 7) waitingState = .next t ∧ t.rxState = .accumulating)
    ∧ (Inv Config.params stalledState ∧ ∃ t, exec (.tick 7) stalledState = .next t ∧ t.rxState = .frameComplete) := by
  refine ⟨⟨inv_reset, _, tick_reset 7, rfl⟩, ⟨inv_waiting, _, rfl, rfl⟩, inv_stalled, ?_⟩
  refine ⟨candidateState Config.params stalledAt7, ?_, rfl⟩
  have h : scan Config.params stalledAt7 = .ok (candidateState Config.params stalledAt7) := by
    show (stepComplete Config.params stalledAt7 >>= _) = _
    rw [stepComplete_stalled]
    rfl
  show runOutcome (scan Config.params stalledAt7 >>= _) = _
  rw [h]
  rfl

theorem witness_TickStoresOnlyItsFrames :
    Inv Config.params State.reset ∧ (∃ t, exec (.tick 7) State.reset = .next t)
      ∧ State.reset.slotTxLen.toNat ≤ 0 ∧ State.reset.slotTxLen = 0#8 := ⟨inv_reset, ⟨_, tick_reset 7⟩, Nat.le_refl _, rfl⟩

theorem witness_UnassignedOpcode :
    (0x00#8).toNat = 0 ∧ 0x0B ≤ (0x0B#8).toNat ∧ 0x0B ≤ (0xFF#8).toNat := by decide

/-! ### The wire -/

theorem witness_IdleByteIsCounted : Inv Config.params State.reset ∧ RingIdle State.reset := ⟨inv_reset, ringIdle_reset⟩

theorem witness_BadLengthIsCounted :
    Inv Config.params State.reset ∧ RingIdle State.reset ∧ Instr.wf Config.params (.wBadlen 0x01) = true
      ∧ Instr.wf Config.params (.wBadlen 0x02) = true := ⟨inv_reset, ringIdle_reset, rfl, rfl⟩

/-- Nothing to acknowledge, a frame waiting, a frame being sent. -/
theorem witness_AckFrameIsHonoured :
    (Inv Config.params State.reset ∧ RingIdle State.reset ∧ State.reset.sendLen = 0#8)
    ∧ (Inv Config.params sentState ∧ RingIdle sentState ∧ sentState.sendLen ≠ 0#8 ∧ sentState.txSent = true
      ∧ (1#4) = sentState.seqCur ∧ sentState.txSrc ≠ .data)
    ∧ (Inv Config.params dataState ∧ RingIdle dataState ∧ dataState.sendLen ≠ 0#8 ∧ dataState.txSent = true
      ∧ (1#4) = dataState.seqCur ∧ dataState.txSrc = .data) :=
  ⟨⟨inv_reset, ringIdle_reset, rfl⟩, ⟨inv_sent, ⟨rfl, rfl, rfl⟩, by decide, rfl, rfl, by decide⟩, inv_data,
    ⟨rfl, rfl, rfl⟩, by decide, rfl, rfl, rfl⟩

/-- A byte that is not the one given. -/
theorem add_one_ne (b : Byte) : b + 1#8 ≠ b := by simp

theorem witness_CorruptAckIsCounted :
    Inv Config.params State.reset ∧ RingIdle State.reset
      ∧ ∃ chk, chk ≠ Config.params.cs [0x03#8, seqByte 0 1] := ⟨inv_reset, ringIdle_reset, _, add_one_ne _⟩

/-- The payload `[0]` has an admissible length. -/
theorem payload_fits : Config.params.minMsgLen ≤ [0x00#8].length ∧ [0x00#8].length ≤ Config.params.maxMsgLen :=
  ⟨Nat.le_refl 1, one_le_maxMsgLen⟩

theorem witness_NewDataIsDelivered :
    Inv Config.params State.reset ∧ RingIdle State.reset
      ∧ (Config.params.minMsgLen ≤ [0x00#8].length ∧ [0x00#8].length ≤ Config.params.maxMsgLen)
      ∧ (1#4) ≠ 0#4 ∧ (1#4) ≠ State.reset.seqLastSeen ∧ State.reset.slotRxLen = 0#8 :=
  ⟨inv_reset, ringIdle_reset, payload_fits, by decide, by decide, rfl⟩

/-- Number 1 was seen last; the mailbox is empty, then full. -/
theorem witness_DuplicateIsAcknowledgedOnly :
    (Inv Config.params { State.reset with seqLastSeen := 1 } ∧ RingIdle { State.reset with seqLastSeen := 1 })
    ∧ (Inv Config.params { mailState with seqLastSeen := 1 } ∧ RingIdle { mailState with seqLastSeen := 1 })
    ∧ (Config.params.minMsgLen ≤ [0x00#8].length ∧ [0x00#8].length ≤ Config.params.maxMsgLen)
    ∧ (1#4) ≠ 0#4 ∧ (1#4) = { State.reset with seqLastSeen := 1 }.seqLastSeen :=
  ⟨⟨inv_quiet (fun a => by cases a <;> rfl) ⟨rfl, Nat.zero_le _⟩ ⟨rfl, rfl⟩ (by decide) (by decide) ⟨rfl, rfl, rfl, rfl⟩,
      ⟨rfl, rfl, rfl⟩⟩,
    ⟨inv_quiet (fun a => by cases a <;> rfl) ⟨rfl, Nat.zero_le _⟩ ⟨rfl, rfl⟩ (by decide) (by decide) ⟨rfl, rfl, rfl, rfl⟩,
      ⟨rfl, rfl, rfl⟩⟩,
    payload_fits, by decide, rfl⟩

theorem witness_ReservedNumberIsCounted :
    Inv Config.params State.reset ∧ RingIdle State.reset
      ∧ (Config.params.minMsgLen ≤ [0x00#8].length ∧ [0x00#8].length ≤ Config.params.maxMsgLen) :=
  ⟨inv_reset, ringIdle_reset, payload_fits⟩

theorem witness_FullMailboxStallsNewData :
    Inv Config.params mailState ∧ RingIdle mailState
      ∧ (Config.params.minMsgLen ≤ [0x00#8].length ∧ [0x00#8].length ≤ Config.params.maxMsgLen)
      ∧ (1#4) ≠ 0#4 ∧ (1#4) ≠ mailState.seqLastSeen ∧ mailState.slotRxLen ≠ 0#8 :=
  ⟨inv_mail, ⟨rfl, rfl, rfl⟩, payload_fits, by decide, by decide, by decide⟩

theorem witness_CorruptDataIsCounted :
    Inv Config.params State.reset ∧ RingIdle State.reset
      ∧ (Config.params.minMsgLen ≤ [0x00#8].length ∧ [0x00#8].length ≤ Config.params.maxMsgLen)
      ∧ ∃ chk, chk ≠ Config.params.cs (BitVec.ofNat 8 ([0x00#8].length + 3) :: seqByte 1 0 :: [0x00#8]) :=
  ⟨inv_reset, ringIdle_reset, payload_fits, _, add_one_ne _⟩

theorem witness_RetransmissionNotDeliveredTwice :
    Inv Config.params State.reset ∧ RingIdle State.reset
      ∧ (Config.params.minMsgLen ≤ [0x00#8].length ∧ [0x00#8].length ≤ Config.params.maxMsgLen)
      ∧ (15#4) ≠ 0#4 ∧ (15#4) ≠ State.reset.seqLastSeen ∧ State.reset.slotRxLen = 0#8
      ∧ State.reset.txSrc = .idle ∧ State.reset.txDue = false :=
  ⟨inv_reset, ringIdle_reset, payload_fits, by decide, by decide, rfl, rfl, rfl⟩

theorem witness_WireUnitArrivesThroughTick :
    Instr.isWire .wIdle = true ∧ Instr.isWire (.wData 1 0 [0x00] 0x00) = true := ⟨rfl, rfl⟩

/-- A state at reset under TI, with the invariant under TI; PROG4's frames and garbage. -/
theorem inv_ti : Inv testParams ti where
  mem_wf := fun a => by cases a <;> exact memory_wf_nil
  mem_bounded := fun a c hc => by cases a <;> cases hc
  rbHead_lt := by decide
  rbUsed_le := by decide
  slotTxLen_range := .inl rfl
  slotRxLen_range := .inl rfl
  sendLen_range := .inl rfl
  data_sent := by decide
  rel_data := by decide
  due_waiting := by decide
  idle_idx := by decide
  data_idx := by decide
  ack_idx := by decide
  seqCur_pos := by decide
  seeking_len := by decide
  accumulating_candidate := fun h => by cases h
  complete_candidate := fun h => by cases h
  one_message := by decide
  baudCfg_inRange := by decide
  baudCurrent_inRange := by decide
  baudNew_inRange := by decide
  dynMin_inRange := by decide

theorem witness_ResynchronizesAfterGarbage :
    Inv testParams ti ∧ RingIdle ti ∧ ti.slotRxLen = 0#8
      ∧ testParams.minMsgLen ≤ [0xA1#8].length ∧ [0xA1#8].length ≤ testParams.maxMsgLen
      ∧ testParams.minMsgLen ≤ [0xB2#8].length ∧ [0xB2#8].length ≤ testParams.maxMsgLen
      ∧ (1#4) ≠ 0#4 ∧ (1#4) ≠ ti.seqLastSeen ∧ (2#4) ≠ 0#4 ∧ (2#4) ≠ 1#4
      ∧ (∀ g ∈ [0xFF#8, 0xFE#8, 0xFD#8], lenClass testParams g = .badlen)
      ∧ [0xA1#8].length + 3 + [0xFF#8, 0xFE#8, 0xFD#8].length + ([0xB2#8].length + 3) ≤ testParams.rbSize :=
  ⟨inv_ti, ⟨rfl, rfl, rfl⟩, by decide⟩

/-! ### Whole-machine rules -/

theorem witness_EveryStepKeepsTheInvariant :
    (Inv Config.params mailState ∧ ∃ t, exec .drain mailState = .next t)
    ∧ (Inv Config.params State.reset ∧ ∃ t, step State.reset = .next t) := by
  refine ⟨⟨inv_mail, ?_⟩, inv_reset, _, rfl⟩
  have h : load Config.params .slotRx 1 mailState = .ok _ := load_eq_ok.2 ⟨one_le_maxMsgLen, rfl⟩
  exact ⟨_, by
    show runOutcome (load Config.params .slotRx 1 mailState >>= _) = _
    rw [h]; rfl⟩

theorem witness_StalledFrameStaysValid :
    Inv Config.params stalledState ∧ StalledFrameValid Config.params stalledState
      ∧ stalledState.rxState = .frameComplete ∧ ∃ t, exec .txByte stalledState = .next t :=
  ⟨inv_stalled, stalled_valid, rfl, _, rfl⟩

/-- A candidate that waits, and one more byte. -/
theorem witness_AccumulatingCandidateStaysShort :
    Inv Config.params waitingState ∧ waitingState.rxState = .accumulating
      ∧ waitingState.rbUsed < waitingState.rxLen.toNat
      ∧ ∃ t, exec (.rxByte 0x00) waitingState = .next t ∧ t.rxState = .accumulating := by
  refine ⟨inv_waiting, rfl, by decide, _, rfl, ?_⟩
  have h4 := four_le_rbSize Config.params
  show (rbPush Config.params 0x00 waitingState).rxState = _
  rw [rbPush_room]
  · rfl
  · show 1 ≠ _
    omega

theorem witness_StalledFrameKeepsMailboxFull :
    Inv Config.params stalledState ∧ stalledState.rxState = .frameComplete ∧ stalledState.slotRxLen ≠ 0#8
      ∧ ∃ t, exec .txByte stalledState = .next t ∧ t.rxState = .frameComplete :=
  ⟨inv_stalled, rfl, by decide, _, rfl, rfl⟩

theorem witness_EveryOperationCompletes :
    Inv Config.params stalledState ∧ Inv Config.params State.reset
      ∧ step State.reset = .next State.reset
      ∧ Inv Config.params { State.reset with cmdIn := [0x02] }
      ∧ decodeCommand [0x02] = .error (.truncated "TICK") :=
  ⟨inv_stalled, inv_reset, rfl,
    inv_quiet (fun a => by cases a <;> rfl) ⟨rfl, Nat.zero_le _⟩ ⟨rfl, rfl⟩ (by decide) (by decide) ⟨rfl, rfl, rfl, rfl⟩,
    rfl⟩

theorem witness_CountersNeverDecrease :
    Instr.invalid 0x00 ≠ .reset ∧ ∃ t, exec (.invalid 0x00) State.reset = .next t := ⟨by decide, _, rfl⟩

/-- An operation that signals an event, and one that makes a counter count. -/
theorem witness_ErrorCountersCountTheirEvents :
    (Instr.invalid 0x00 ≠ .reset ∧ ∃ t, exec (.invalid 0x00) State.reset = .next t)
    ∧ (Instr.rxByte 0x00 ≠ .reset ∧ ∃ t, exec (.rxByte 0x00) fullState = .next t ∧ t.errOverflow = 1) := by
  refine ⟨⟨by decide, _, rfl⟩, by decide, _, rfl, ?_⟩
  show (rbPush Config.params 0x00 fullState).errOverflow = 1
  rw [rbPush_full _ rfl (rbSize_pos _)]
  rfl

/-- The transmit mailbox is filled. -/
theorem witness_MessageCountersCountMailboxes :
    Inv Config.params State.reset ∧ Instr.submit [0x00] ≠ .reset ∧ State.reset.slotTxLen = 0#8
      ∧ ∃ t, exec (.submit [0x00]) State.reset = .next t ∧ t.slotTxLen ≠ 0#8 := by
  refine ⟨inv_reset, by decide, rfl, ?_⟩
  obtain ⟨t, ht⟩ := submitWith_answers Config.params [0x00] State.reset
  have h1 := one_le_maxMsgLen
  refine ⟨t, runOutcome_eq_next.2 ht, ?_⟩
  rcases submitWith_cases ht with ⟨h, -⟩ | ⟨-, -, h, -⟩ | ⟨-, -, -, -, rfl⟩
  · rcases h with h | h
    · exact absurd h (by decide)
    · simp only [List.length_singleton] at h
      omega
  · rcases h with h | h <;> exact absurd rfl h
  · decide

theorem r36_reset : R36 Config.params State.reset :=
  { inv_reset with
    accumulating_short := fun h => by cases h
    stalled_valid := fun h => by cases h
    stalled_mailbox := fun h => by cases h }

theorem r36_waiting : R36 Config.params waitingState :=
  { inv_waiting with
    accumulating_short := fun _ => by decide
    stalled_valid := fun h => by cases h
    stalled_mailbox := fun h => by cases h }

theorem r36_stalled : R36 Config.params stalledState :=
  { inv_stalled with
    accumulating_short := fun h => by cases h
    stalled_valid := stalled_valid
    stalled_mailbox := fun _ => by decide }

/-- A TICK and a wire unit; and operations that do not scan, with a candidate that waits and with a stalled one. -/
theorem witness_R36AsWordedIsKept :
    (Inv Config.params State.reset ∧ ∃ t, exec (.tick 7) State.reset = .next t)
    ∧ (Inv Config.params State.reset ∧ Instr.isWire .wIdle = true ∧ ∃ t, exec .wIdle State.reset = .next t)
    ∧ (R36 Config.params waitingState ∧ waitingState.rbUsed + 1 ≠ waitingState.rxLen.toNat
      ∧ ∃ t, exec (.rxByte 0x00) waitingState = .next t)
    ∧ (R36 Config.params stalledState ∧ ∃ t, exec .txByte stalledState = .next t)
    ∧ (R36 Config.params State.reset ∧ State.reset.rxState ≠ .frameComplete
      ∧ ∃ t, exec .drain State.reset = .next t) := by
  refine ⟨⟨inv_reset, _, tick_reset 7⟩, ⟨inv_reset, rfl, ?_⟩, ⟨r36_waiting, by decide, _, rfl⟩, ⟨r36_stalled, _, rfl⟩,
    r36_reset, by decide, _, rfl⟩
  have hp := rbSize_pos Config.params
  have h := rbPush_room (P := Config.params) (s := State.reset) 0x00#8 (by show 0 ≠ _; omega)
  have e : exec .wIdle State.reset = runOutcome (scan Config.params (rbPush Config.params 0x00#8 State.reset)) := rfl
  rw [e, h]
  exact ⟨_, rfl⟩

end Sys2Proof.Tests
end

section
/-! The parameters (R7, R8): the machine's own MIN_MSG_LEN and RB_SIZE, and the admissibility of every parameter set. -/

namespace Sys2Proof

/-- A rate inside [BAUD_MIN, BAUD_MAX], in numbers (R7, R8). -/
theorem baudInRange_iff_toNat (v : Word) : BaudInRange v ↔ 400000 ≤ v.toNat ∧ v.toNat ≤ 2000000 := by
  simp only [BaudInRange, baudMin, baudMax, BitVec.le_def, BitVec.toNat_ofNat, Nat.reducePow, Nat.reduceMod]

theorem maxFrameLen_eq (P : Params) : P.maxFrameLen = P.maxMsgLen + 3 := rfl

theorem configParams_minMsgLen : Config.params.minMsgLen = 1 := rfl

/-- The two cases of the machine's RB_SIZE (D6): the chip's own where one is given, the default elsewhere. Which of them
holds is open (log 13). -/
theorem configParams_rbSize :
    Config.params.rbSize = if Config.rbSizeGiven then (@Config.chipParams ⟨testParams⟩).rbSize else 1024 := rfl

/-- Settles O60: each item of R8 is a proof that the parameter set carries; the machine's own two values are D12's and
D6's. -/
theorem parametersAreAdmissible : Obligations.ParametersAreAdmissible := by
  refine ⟨fun P => ?_, configParams_minMsgLen, configParams_rbSize⟩
  have hbaud := (baudInRange_iff_toNat P.baudReset).mp P.baudReset_inRange
  have hdyn := (baudInRange_iff_toNat P.dynMinReset).mp P.dynMinReset_inRange
  exact ⟨P.rbSize_pow, Machine.maxFrameLen_le_rbSize P, maxFrameLen_eq P, P.min_pos, P.min_le_max, P.max_le,
    P.timeout_pos, P.idle_pos, hbaud, hdyn⟩

end Sys2Proof
end

section
/-! The invariant of R36 in parts, each about the few fields it speaks of: the storage areas, the transmit side, the
baud rates and the receive mailbox (`SideInv`), and the ring with the scanner's candidate (`ReceiveInv`). An operation
that does not touch a part's fields keeps the part as it stands. -/

namespace Sys2Proof.Machine

/-! ## The parts -/

/-- One storage area is in canonical form and within its bounds (R38). -/
def AreaInv (P : Params) (a : Area) (m : Memory) : Prop := m.wf ∧ ∀ c ∈ m, c.1 < areaSize P a

/-- The transmit side (R36 items 2 to 8 and 12, without the receive mailbox). -/
structure TransmitInv (P : Params) (slotTxLen sendLen : Byte) (txSrc : TxSrc) (txIdx : Byte) (txSent txDue txRel : Bool)
    (seqCur : Nibble) : Prop where
  slotTxLen_range : ZeroOrIn P.minMsgLen P.maxMsgLen slotTxLen
  sendLen_range : ZeroOrIn (overhead + P.minMsgLen) P.maxFrameLen sendLen
  data_sent : txSrc = .data → sendLen ≠ 0#8 ∧ txSent = true
  rel_data : txRel = true → txSrc = .data
  due_waiting : txDue = true → sendLen ≠ 0#8 ∧ txSrc ≠ .data
  idle_idx : txSrc = .idle → txIdx = 0#8
  data_idx : txSrc = .data → txIdx.toNat < sendLen.toNat
  ack_idx : txSrc = .ack → txIdx.toNat < 3
  seqCur_pos : seqCur ≠ 0#4
  one_message : slotTxLen ≠ 0#8 → sendLen = 0#8

/-- The four rates (R28). -/
structure RatesInv (baudCfg baudCurrent baudNew dynMin : Word) : Prop where
  baudCfg_inRange : BaudInRange baudCfg
  baudCurrent_inRange : BaudInRange baudCurrent
  baudNew_inRange : BaudInRange baudNew
  dynMin_inRange : BaudInRange dynMin

/-- All of the invariant but what it says of the ring and the scanner. -/
structure SideInv (P : Params) (s : State) : Prop where
  areas : ∀ a, AreaInv P a (areaMem s a)
  transmit : TransmitInv P s.slotTxLen s.sendLen s.txSrc s.txIdx s.txSent s.txDue s.txRel s.seqCur
  mailbox : ZeroOrIn P.minMsgLen P.maxMsgLen s.slotRxLen
  rates : RatesInv s.baudCfg s.baudCurrent s.baudNew s.dynMin

/-- The ring and the scanner's candidate (R36 items 1 and 9 to 11) as they stand inside a scan too, where a complete
candidate may be an ACK frame. -/
structure ReceiveInv (P : Params) (s : State) : Prop where
  head_lt : s.rbHead < P.rbSize
  used_le : s.rbUsed ≤ P.rbSize
  seeking_len : s.rxState = .seeking → s.rxLen = 0#8
  candidate : s.rxState ≠ .seeking →
    1 ≤ s.rbUsed ∧ s.rxLen = memRead s.rb (rbOffset P s 0) ∧ (lenClass P s.rxLen = .ack ∨ lenClass P s.rxLen = .data)
  complete_used : s.rxState = .frameComplete → s.rxLen.toNat ≤ s.rbUsed

/-- Between operations a complete candidate is a data frame (R36 item 11). -/
def CompleteIsData (P : Params) (s : State) : Prop := s.rxState = .frameComplete → lenClass P s.rxLen = .data

/-! ## The parts make the invariant -/

theorem eq_three_of_ack {P : Params} {len : Byte} (h : lenClass P len = .ack) : len = 3#8 := by
  rcases lenClass_cases P len with ⟨e, -⟩ | ⟨e, -⟩ | ⟨-, e⟩ | ⟨e, -⟩
  · cases e.symm.trans h
  · cases e.symm.trans h
  · exact e
  · cases e.symm.trans h

theorem range_of_data {P : Params} {len : Byte} (h : lenClass P len = .data) :
    3 + P.minMsgLen ≤ len.toNat ∧ len.toNat ≤ P.maxMsgLen + 3 := by
  rcases lenClass_cases P len with ⟨e, -⟩ | ⟨e, -⟩ | ⟨e, -⟩ | ⟨-, hrange⟩
  · cases e.symm.trans h
  · cases e.symm.trans h
  · cases e.symm.trans h
  · exact hrange

theorem three_le_of_frame {P : Params} {len : Byte} (h : lenClass P len = .ack ∨ lenClass P len = .data) :
    3 ≤ len.toNat := by
  rcases h with h | h
  · rw [eq_three_of_ack h]; decide
  · have := range_of_data h; omega

/-- A frame longer than the overhead is no ACK (R57). -/
theorem data_of_long {P : Params} {len : Byte} (h : lenClass P len = .ack ∨ lenClass P len = .data)
    (hlong : overhead < len.toNat) : lenClass P len = .data :=
  h.resolve_left fun hack => by
    rw [eq_three_of_ack hack] at hlong
    exact absurd hlong (by decide)

theorem le_maxFrameLen_of_frame {P : Params} {len : Byte} (h : lenClass P len = .ack ∨ lenClass P len = .data) :
    len.toNat ≤ P.maxFrameLen := by
  rw [maxFrameLen_eq]
  rcases h with h | h
  · rw [eq_three_of_ack h]; exact Nat.le_add_left 3 _
  · exact (range_of_data h).2

variable {P : Params} {s t : State}

theorem Inv.side (h : Inv P s) : SideInv P s where
  areas a := ⟨h.mem_wf a, h.mem_bounded a⟩
  transmit := { h with }
  mailbox := h.slotRxLen_range
  rates := { h with }

theorem Inv.receive (h : Inv P s) : ReceiveInv P s where
  head_lt := h.rbHead_lt
  used_le := h.rbUsed_le
  seeking_len := h.seeking_len
  candidate hne := by
    cases hrx : s.rxState with
    | seeking => exact absurd hrx hne
    | accumulating => exact h.accumulating_candidate hrx
    | frameComplete =>
      obtain ⟨hused, hlen, hdata⟩ := h.complete_candidate hrx
      have := three_le_of_frame (.inr hdata)
      exact ⟨by omega, hlen, .inr hdata⟩
  complete_used hrx := (h.complete_candidate hrx).1

theorem Inv.completeIsData (h : Inv P s) : CompleteIsData P s := fun hrx => (h.complete_candidate hrx).2.2

/-- The parts, and the class of a complete candidate, are the whole invariant. -/
theorem inv_of_parts (hs : SideInv P s) (hr : ReceiveInv P s) (hc : CompleteIsData P s) : Inv P s :=
  { hs.transmit, hs.rates, hr with
    mem_wf := fun a => (hs.areas a).1
    mem_bounded := fun a => (hs.areas a).2
    rbHead_lt := hr.head_lt
    rbUsed_le := hr.used_le
    slotRxLen_range := hs.mailbox
    accumulating_candidate := fun hrx => hr.candidate (by rw [hrx]; decide)
    complete_candidate := fun hrx =>
      ⟨hr.complete_used hrx, (hr.candidate (by rw [hrx]; decide)).2.1, hc hrx⟩ }

/-! ## Operations that leave the receive side -/

/-- The ring, the scanner's candidate and the number last seen are the same in both states. -/
structure SameReceiver (s t : State) : Prop where
  rb : t.rb = s.rb
  rbHead : t.rbHead = s.rbHead
  rbUsed : t.rbUsed = s.rbUsed
  rxState : t.rxState = s.rxState
  rxLen : t.rxLen = s.rxLen
  seqLastSeen : t.seqLastSeen = s.seqLastSeen

theorem SameReceiver.rbOffset_eq (h : SameReceiver s t) (i : Nat) : rbOffset P t i = rbOffset P s i := by
  rw [rbOffset, h.rbHead, rbOffset]

theorem SameReceiver.ringBytes_eq (h : SameReceiver s t) (n : Nat) : ringBytes P n t = ringBytes P n s := by
  simp only [ringBytes, h.rb, h.rbOffset_eq]

theorem ReceiveInv.of_sameReceiver (hr : ReceiveInv P s) (h : SameReceiver s t) : ReceiveInv P t where
  head_lt := h.rbHead ▸ hr.head_lt
  used_le := h.rbUsed ▸ hr.used_le
  seeking_len := by rw [h.rxState, h.rxLen]; exact hr.seeking_len
  candidate := by rw [h.rxState, h.rbUsed, h.rxLen, h.rb, h.rbOffset_eq]; exact hr.candidate
  complete_used := by rw [h.rxState, h.rbUsed, h.rxLen]; exact hr.complete_used

theorem Inv.of_sameReceiver (hi : Inv P s) (hs : SideInv P t) (h : SameReceiver s t) : Inv P t :=
  inv_of_parts hs (hi.receive.of_sameReceiver h) (by
    rw [CompleteIsData, h.rxState, h.rxLen]; exact hi.completeIsData)

theorem StalledFrameValid.of_sameReceiver (hv : StalledFrameValid P s) (h : SameReceiver s t) :
    StalledFrameValid P t := by
  rw [StalledFrameValid, h.rxState, h.rxLen, h.ringBytes_eq, h.seqLastSeen]
  exact hv

/-- What an operation off the receive path does: it keeps the other parts of the invariant and touches neither the ring
nor the scanner. -/
structure OffRing (P : Params) (s t : State) : Prop where
  side : SideInv P s → SideInv P t
  receiver : SameReceiver s t

/-- The same, and the receive mailbox holds as many bytes as before: all operations but DRAIN (R104). -/
structure OffReceive (P : Params) (s t : State) : Prop extends OffRing P s t where
  mailbox : t.slotRxLen = s.slotRxLen

theorem OffRing.inv (h : OffRing P s t) (hi : Inv P s) : Inv P t := hi.of_sameReceiver (h.side hi.side) h.receiver

/-- Off the ring R36 as worded is kept as long as a stalled frame finds the receive mailbox full. -/
theorem OffRing.r36 (h : OffRing P s t) (hr : R36 P s) (hmail : s.rxState = .frameComplete → t.slotRxLen ≠ 0#8) :
    R36 P t :=
  { h.inv hr.toInv with
    accumulating_short := by
      rw [h.receiver.rxState, h.receiver.rbUsed, h.receiver.rxLen]; exact hr.accumulating_short
    stalled_valid := hr.stalled_valid.of_sameReceiver h.receiver
    stalled_mailbox := by rw [h.receiver.rxState]; exact hmail }

theorem OffReceive.r36 (h : OffReceive P s t) (hr : R36 P s) : R36 P t :=
  h.toOffRing.r36 hr (by rw [h.mailbox]; exact hr.stalled_mailbox)

end Sys2Proof.Machine
end

section
/-! The operations off the receive path: each keeps the parts of the invariant it touches and leaves the receive side
as it is. -/

namespace Sys2Proof.Machine

/-! ## Storage areas -/

theorem AreaInv.memWrite {P : Params} {a : Area} {m : Memory} (h : AreaInv P a m) {k : Nat} (hk : k < areaSize P a)
    (b : Byte) : AreaInv P a (memWrite m k b) := by
  refine ⟨memWrite_wf h.1 k b, fun c hc => ?_⟩
  rcases mem_memWrite hc with hc | rfl
  · exact h.2 c hc
  · exact hk

theorem AreaInv.memWriteBytes {P : Params} {a : Area} {m : Memory} (h : AreaInv P a m) {k : Nat} {bs : List Byte}
    (hk : k + bs.length ≤ areaSize P a) : AreaInv P a (memWriteBytes m k bs) := by
  refine ⟨memWriteBytes_wf h.1 k bs, fun c hc => ?_⟩
  rcases mem_memWriteBytes hc with hc | hc
  · exact h.2 c hc
  · omega

theorem areaInv_setAreaMem {P : Params} {s : State} (h : ∀ a, AreaInv P a (areaMem s a)) {m : Memory} (a : Area)
    (hm : AreaInv P a m) (b : Area) : AreaInv P b (areaMem (setAreaMem s m a) b) :=
  have hset := setAreaMem_mem (fun b => (h b).1) (fun b => (h b).2) hm.1 hm.2
  ⟨hset.1 b, hset.2 b⟩

/-! ## The transmit side -/

variable {P : Params} {s t u : State} {slotTxLen sendLen txIdx : Byte} {txSrc : TxSrc} {txSent txDue txRel : Bool}
  {seqCur : Nibble}

/-- After a release nothing waits in the send buffer and the next number is current (R81). -/
theorem TransmitInv.released
    (h : TransmitInv P slotTxLen sendLen txSrc txIdx txSent txDue txRel seqCur) (hsrc : txSrc ≠ .data) :
    TransmitInv P slotTxLen 0#8 txSrc txIdx false false false (nextSeq seqCur) :=
  { h with
    sendLen_range := .inl rfl
    data_sent := fun e => absurd e hsrc
    rel_data := nofun
    due_waiting := nofun
    data_idx := fun e => absurd e hsrc
    seqCur_pos := nextSeq_ne_zero _
    one_message := fun _ => rfl }

/-- At a frame boundary the line is free (R88). -/
theorem TransmitInv.boundary
    (h : TransmitInv P slotTxLen sendLen txSrc txIdx txSent txDue txRel seqCur) (hrel : txRel = false) :
    TransmitInv P slotTxLen sendLen .idle 0#8 txSent txDue txRel seqCur :=
  { h with
    data_sent := nofun
    rel_data := fun e => by rw [hrel] at e; cases e
    due_waiting := fun e => ⟨(h.due_waiting e).1, by decide⟩
    idle_idx := fun _ => rfl
    data_idx := nofun
    ack_idx := nofun }

/-- At the boundary of a frame whose ACK has come, the line is free and the frame released (R88, R81). -/
theorem TransmitInv.boundaryReleased
    (h : TransmitInv P slotTxLen sendLen txSrc txIdx txSent txDue txRel seqCur) :
    TransmitInv P slotTxLen 0#8 .idle 0#8 false false false (nextSeq seqCur) :=
  { h with
    sendLen_range := .inl rfl
    data_sent := nofun
    rel_data := nofun
    due_waiting := nofun
    idle_idx := fun _ => rfl
    data_idx := nofun
    ack_idx := nofun
    seqCur_pos := nextSeq_ne_zero _
    one_message := fun _ => rfl }

/-- A data frame starts with its first byte (R88). -/
theorem TransmitInv.dataStarted
    (h : TransmitInv P slotTxLen sendLen txSrc txIdx txSent txDue txRel seqCur) (hne : sendLen ≠ 0#8) :
    TransmitInv P slotTxLen sendLen .data 0#8 true false txRel seqCur :=
  { h with
    data_sent := fun _ => ⟨hne, rfl⟩
    rel_data := fun _ => rfl
    due_waiting := nofun
    idle_idx := nofun
    data_idx := fun _ => BitVec.lt_def.1 ((BitVec.pos_iff_ne_zero _).2 hne)
    ack_idx := nofun }

/-- An ACK frame starts on a free line (R88). -/
theorem TransmitInv.ackStarted (h : TransmitInv P slotTxLen sendLen .idle txIdx txSent txDue txRel seqCur) :
    TransmitInv P slotTxLen sendLen .ack 0#8 txSent txDue txRel seqCur :=
  { h with
    data_sent := nofun
    rel_data := fun e => nomatch h.rel_data e
    due_waiting := fun e => ⟨(h.due_waiting e).1, nofun⟩
    idle_idx := nofun
    data_idx := nofun
    ack_idx := fun _ => by decide }

/-- A message goes from the mailbox into the empty send buffer, and its frame is due (R86). -/
theorem TransmitInv.framed
    (h : TransmitInv P slotTxLen 0#8 txSrc txIdx txSent txDue txRel seqCur) (hslot : slotTxLen ≠ 0#8) :
    TransmitInv P 0#8 (slotTxLen + 3#8) txSrc txIdx false true false seqCur := by
  have hsrc : txSrc ≠ .data := fun e => (h.data_sent e).1 rfl
  obtain hz | ⟨hlo, hhi⟩ := h.slotTxLen_range
  · exact absurd hz hslot
  have hlen : (slotTxLen + 3#8).toNat = slotTxLen.toNat + 3 := by
    have := P.max_le
    rw [BitVec.toNat_add, show (3#8).toNat = 3 from rfl, Nat.mod_eq_of_lt (by omega)]
  have hne : slotTxLen + 3#8 ≠ 0#8 := fun e => by
    rw [e] at hlen; simp at hlen
  exact
    { h with
      slotTxLen_range := .inl rfl
      sendLen_range := .inr ⟨by rw [hlen, overhead]; omega, by rw [hlen, maxFrameLen_eq]; omega⟩
      data_sent := fun e => absurd e hsrc
      rel_data := nofun
      due_waiting := fun _ => ⟨hne, hsrc⟩
      data_idx := fun e => absurd e hsrc
      one_message := fun e => absurd rfl e }

/-- The index moves on inside the frame of `n` bytes (R88). -/
theorem succ_toNat_lt {i n : Byte} (h : i.toNat < n.toNat) (hne : i + 1#8 ≠ n) : (i + 1#8).toNat < n.toNat := by
  have hne' : (i + 1#8).toNat ≠ n.toNat := fun e => hne (BitVec.eq_of_toNat_eq e)
  have hi : (i + 1#8).toNat = i.toNat + 1 := by
    have := n.isLt
    rw [BitVec.toNat_add, show (1#8).toNat = 1 from rfl, Nat.mod_eq_of_lt (by omega)]
  omega

theorem inboundAck_side (a : Nibble) (h : SideInv P s) : SideInv P (inboundAck a s) := by
  rcases inboundAck_cases a s with ⟨-, e⟩ | ⟨-, -, -, hsrc, e⟩ | ⟨-, -, -, hsrc, e⟩ <;> rw [e]
  · exact h
  · exact { h with transmit := { h.transmit with rel_data := fun _ => hsrc } }
  · exact ⟨fun a => by rw [areaMem_release]; exact h.areas a, h.transmit.released hsrc, h.mailbox, h.rates⟩

/-! ## OffRing and OffReceive -/

theorem OffReceive.trans (h₁ : OffReceive P s t) (h₂ : OffReceive P t u) : OffReceive P s u where
  side h := h₂.side (h₁.side h)
  receiver :=
    { rb := h₂.receiver.rb.trans h₁.receiver.rb
      rbHead := h₂.receiver.rbHead.trans h₁.receiver.rbHead
      rbUsed := h₂.receiver.rbUsed.trans h₁.receiver.rbUsed
      rxState := h₂.receiver.rxState.trans h₁.receiver.rxState
      rxLen := h₂.receiver.rxLen.trans h₁.receiver.rxLen
      seqLastSeen := h₂.receiver.seqLastSeen.trans h₁.receiver.seqLastSeen }
  mailbox := h₂.mailbox.trans h₁.mailbox

theorem OffReceive.refl (s : State) : OffReceive P s s := ⟨⟨id, ⟨rfl, rfl, rfl, rfl, rfl, rfl⟩⟩, rfl⟩

theorem respond_offReceive (bytes : List Byte) (s : State) : OffReceive P s (respond bytes s) :=
  ⟨⟨fun h => { h with }, ⟨rfl, rfl, rfl, rfl, rfl, rfl⟩⟩, rfl⟩

theorem signal_offReceive (e : Event) (s : State) : OffReceive P s (signal e s) :=
  ⟨⟨fun h => { h with }, ⟨rfl, rfl, rfl, rfl, rfl, rfl⟩⟩, rfl⟩

/-! ## The host's commands -/

/-- New rates, inside their range, are all that changes (R92 to R95). -/
theorem offReceive_rates {cfg cur new min : Word} {change en : Bool}
    (h : RatesInv s.baudCfg s.baudCurrent s.baudNew s.dynMin → RatesInv cfg cur new min) :
    OffReceive P s
      { s with
        baudCfg := cfg, baudCurrent := cur, baudNew := new, baudChange := change, dynEnable := en, dynMin := min } :=
  ⟨⟨fun hs => ⟨hs.areas, hs.transmit, hs.mailbox, h hs.rates⟩, ⟨rfl, rfl, rfl, rfl, rfl, rfl⟩⟩, rfl⟩

theorem pendFixedRate_offReceive (s : State) : OffReceive P s (pendFixedRate s) := by
  rcases pendFixedRate_cases s with ⟨-, e⟩ | ⟨-, e⟩ <;> rw [e]
  · exact offReceive_rates fun h => { h with baudNew_inRange := h.baudCfg_inRange }
  · exact .refl s

theorem baudApply_offReceive (s : State) : OffReceive P s (baudApply s) := by
  rcases baudApply_cases s with ⟨-, -, e⟩ | ⟨-, e⟩ <;> rw [e]
  · exact offReceive_rates fun h => { h with baudCurrent_inRange := h.baudNew_inRange }
  · exact .refl s

theorem maxWord_inRange {a b : Word} (ha : BaudInRange a) (hb : BaudInRange b) : BaudInRange (maxWord a b) := by
  unfold maxWord
  split
  · exact hb
  · exact ha

theorem execSetBaud_offReceive {v : Word} (h : execSetBaud v s = .next t) : OffReceive P s t := by
  obtain rfl := Host.Outcome.next.inj h
  have hrate : OffReceive P s { s with baudCfg := clampBaud v } :=
    offReceive_rates fun h => { h with baudCfg_inRange := clampBaud_inRange v }
  exact (hrate.trans (pendFixedRate_offReceive _)).trans (respond_offReceive _ _)

theorem execSetDynConfig_offReceive {en : Byte} {min : Word} (h : execSetDynConfig en min s = .next t) :
    OffReceive P s t := by
  obtain rfl := Host.Outcome.next.inj h
  have hfloor : OffReceive P s { s with dynEnable := en ≠ 0#8, dynMin := clampBaud min } :=
    offReceive_rates fun h => { h with dynMin_inRange := clampBaud_inRange min }
  exact (hfloor.trans (pendFixedRate_offReceive _)).trans (respond_offReceive _ _)

theorem execProposeBaud_offReceive {v : Word} (h : execProposeBaud v s = .next t) : OffReceive P s t := by
  obtain rfl := Host.Outcome.next.inj h
  split
  · exact (signal_offReceive _ s).trans (respond_offReceive _ _)
  · have hrate : OffReceive P s { s with baudNew := maxWord (clampBaud v) s.dynMin, baudChange := true } :=
      offReceive_rates fun h =>
        { h with baudNew_inRange := maxWord_inRange (clampBaud_inRange v) h.dynMin_inRange }
    exact hrate.trans (respond_offReceive _ _)

theorem readRegWith_offReceive (r : Byte) (s : State) : OffReceive P s (readRegWith P r s) := by
  unfold readRegWith
  split
  · exact respond_offReceive _ s
  · exact (signal_offReceive _ s).trans (respond_offReceive _ _)

theorem execInvalid_offReceive {op : Byte} (h : execInvalid op s = .next t) : OffReceive P s t := by
  obtain rfl := Host.Outcome.next.inj h
  exact (signal_offReceive _ s).trans (respond_offReceive _ _)

/-- A payload of an accepted length, as a length byte (R85, R82). -/
theorem zeroOrIn_payload {p : List Byte} (hlo : P.minMsgLen ≤ p.length) (hhi : p.length ≤ P.maxMsgLen) :
    ZeroOrIn P.minMsgLen P.maxMsgLen (BitVec.ofNat 8 p.length) := by
  have := P.max_le
  have hlen : (BitVec.ofNat 8 p.length).toNat = p.length := by
    rw [BitVec.toNat_ofNat, Nat.mod_eq_of_lt (by omega)]
  exact .inr ⟨by rwa [hlen], by rwa [hlen]⟩

theorem submitWith_offReceive {p : List Byte} (h : submitWith P p s = .ok t) : OffReceive P s t := by
  rcases submitWith_cases h with ⟨-, rfl⟩ | ⟨-, -, -, rfl⟩ | ⟨hlo, hhi, -, hsend, rfl⟩
  · exact (signal_offReceive _ s).trans (respond_offReceive _ _)
  · exact (signal_offReceive _ s).trans (respond_offReceive _ _)
  · refine ⟨⟨fun hs => ⟨?_, ?_, hs.mailbox, hs.rates⟩, ⟨rfl, rfl, rfl, rfl, rfl, rfl⟩⟩, rfl⟩
    · exact areaInv_setAreaMem hs.areas .slotTx ((hs.areas .slotTx).memWriteBytes (by simpa [areaSize] using hhi))
    · exact
        { hs.transmit with
          slotTxLen_range := zeroOrIn_payload hlo hhi
          one_message := fun _ => hsend }

/-- DRAIN empties the mailbox and hands its bytes over; the scanner does not run (R104). -/
theorem drainWith_offRing (h : drainWith P s = .ok t) : OffRing P s t := by
  rcases drainWith_eq_ok.1 h with ⟨-, rfl⟩ | ⟨-, hlen, rfl⟩
  · exact (respond_offReceive _ s).toOffRing
  · refine ⟨fun hs => ⟨?_, hs.transmit, .inl rfl, hs.rates⟩, ⟨rfl, rfl, rfl, rfl, rfl, rfl⟩⟩
    exact areaInv_setAreaMem hs.areas .slotRx
      ((hs.areas .slotRx).memWriteBytes (by simpa [areaSize] using hlen))

/-! ## Framing and the timer -/

theorem frameFromSlot_offReceive (hsend : s.sendLen = 0#8) (hslot : s.slotTxLen ≠ 0#8)
    (h : frameFromSlot P s = .ok t) : OffReceive P s t := by
  obtain ⟨⟨-, hhi, -⟩, rfl⟩ := frameFromSlot_eq_ok.1 h
  refine ⟨⟨fun hs => ⟨?_, ?_, hs.mailbox, hs.rates⟩, ⟨rfl, rfl, rfl, rfl, rfl, rfl⟩⟩, rfl⟩
  · have hbuf := areaInv_setAreaMem hs.areas .sendBuf
      ((hs.areas .sendBuf).memWriteBytes (k := 0)
        (bs := withChecksum P (dataBody (slotTxPayload s) s.seqCur s.seqLastSeen))
        (by simpa [areaSize, maxFrameLen_eq] using hhi))
    exact areaInv_setAreaMem hbuf .slotTx
      ((hs.areas .slotTx).memWriteBytes (by simpa [areaSize] using hhi))
  · exact TransmitInv.framed (hsend ▸ hs.transmit) hslot

theorem retxTimer_offReceive (s : State) : OffReceive P s (retxTimer P s) := by
  rcases retxTimer_cases P s with ⟨hsend, -, -, hsrc, -, e⟩ | ⟨-, e⟩ <;> rw [e]
  · exact
      ⟨⟨fun hs => ⟨hs.areas, { hs.transmit with due_waiting := fun _ => ⟨hsend, hsrc⟩ }, hs.mailbox, hs.rates⟩,
        ⟨rfl, rfl, rfl, rfl, rfl, rfl⟩⟩, rfl⟩
  · exact .refl s

theorem frameOrTimer_offReceive (h : frameOrTimer P s = .ok t) : OffReceive P s t := by
  unfold frameOrTimer at h
  split at h
  · next hc => exact frameFromSlot_offReceive hc.1 hc.2 h
  · rw [← Except.ok.inj h]
    exact retxTimer_offReceive s

/-! ## TX_BYTE -/

theorem txAdvance_side {n : Byte} (hn : s.txSrc = .data ∧ n = s.sendLen ∨ s.txSrc = .ack ∧ n = 3#8)
    (hs : SideInv P s) : SideInv P (txAdvance n s) := by
  have hbusy : s.txSrc ≠ .idle := by rcases hn with ⟨e, -⟩ | ⟨e, -⟩ <;> rw [e] <;> decide
  rcases txAdvance_cases n s with ⟨hin, e⟩ | ⟨-, hrel, e⟩ | ⟨-, -, -, e⟩ <;> rw [e]
  · refine ⟨hs.areas, ?_, hs.mailbox, hs.rates⟩
    exact
      { hs.transmit with
        idle_idx := fun e => absurd e hbusy
        data_idx := fun hdata => by
          obtain ⟨-, rfl⟩ | ⟨hack, -⟩ := hn
          · exact succ_toNat_lt (hs.transmit.data_idx hdata) hin
          · rw [hack] at hdata; cases hdata
        ack_idx := fun hack => by
          obtain ⟨hdata, -⟩ | ⟨-, rfl⟩ := hn
          · rw [hdata] at hack; cases hack
          · exact succ_toNat_lt (n := 3#8) (hs.transmit.ack_idx hack) hin }
  · refine ⟨hs.areas, hs.transmit.boundary ?_, hs.mailbox, hs.rates⟩
    by_contra hr
    rw [Bool.not_eq_false] at hr
    exact hrel ⟨hs.transmit.rel_data hr, hr⟩
  · exact ⟨hs.areas, hs.transmit.boundaryReleased, hs.mailbox, hs.rates⟩

theorem txAdvance_sameReceiver (n : Byte) (s : State) : SameReceiver s (txAdvance n s) := by
  rcases txAdvance_cases n s with ⟨-, e⟩ | ⟨-, -, e⟩ | ⟨-, -, -, e⟩ <;> rw [e] <;>
    exact ⟨rfl, rfl, rfl, rfl, rfl, rfl⟩

theorem txAdvance_slotRxLen (n : Byte) (s : State) : (txAdvance n s).slotRxLen = s.slotRxLen := by
  rcases txAdvance_cases n s with ⟨-, e⟩ | ⟨-, -, e⟩ | ⟨-, -, -, e⟩ <;> rw [e]

theorem txAdvance_offReceive {n : Byte} (hn : s.txSrc = .data ∧ n = s.sendLen ∨ s.txSrc = .ack ∧ n = 3#8) :
    OffReceive P s (txAdvance n s) :=
  ⟨⟨txAdvance_side hn, txAdvance_sameReceiver n s⟩, txAdvance_slotRxLen n s⟩

theorem txEmit_offReceive (hbusy : s.txSrc ≠ .idle) (h : txEmit P s = .ok t) : OffReceive P s t := by
  rw [txEmit_eq_ok] at h
  split at h
  · next hsrc =>
    rw [h.2]
    exact (txAdvance_offReceive (.inl ⟨hsrc, rfl⟩)).trans (respond_offReceive _ _)
  · next hsrc =>
    have hack : s.txSrc = .ack := by cases e : s.txSrc <;> simp_all
    rw [h.2]
    exact (txAdvance_offReceive (.inr ⟨hack, rfl⟩)).trans (respond_offReceive _ _)

/-- A due frame starts: it stands in the send buffer, which it keeps within its bounds (R88). -/
theorem startData_offReceive (h : startData P s = .ok t) : OffReceive P s t := by
  obtain ⟨hne, hle, rfl⟩ := startData_eq_ok.1 h
  refine ⟨⟨fun hs => ⟨?_, ?_, hs.mailbox, hs.rates⟩, ⟨rfl, rfl, rfl, rfl, rfl, rfl⟩⟩, rfl⟩
  · have hsize : areaSize P .sendBuf = P.maxMsgLen + 3 := rfl
    rw [maxFrameLen_eq] at hle
    have hseq := (hs.areas .sendBuf).memWrite (k := 1) (by omega) (seqByte s.seqCur s.seqLastSeen)
    exact areaInv_setAreaMem hs.areas .sendBuf (hseq.memWrite (by omega) _)
  · exact hs.transmit.dataStarted hne

theorem startAck_offReceive (hidle : s.txSrc = .idle) (h : startAck P s = .ok t) : OffReceive P s t := by
  rw [startAck_eq] at h
  obtain rfl := Except.ok.inj h
  refine ⟨⟨fun hs => ⟨?_, ?_, hs.mailbox, hs.rates⟩, ⟨rfl, rfl, rfl, rfl, rfl, rfl⟩⟩, rfl⟩
  · exact areaInv_setAreaMem hs.areas .ackBuf ((hs.areas .ackBuf).memWriteBytes (by simp [encodeAck, areaSize]))
  · exact TransmitInv.ackStarted (hidle ▸ hs.transmit)

theorem txByteWith_offReceive (h : txByteWith P s = .ok t) : OffReceive P s t := by
  rcases txByteWith_cases h with ⟨hbusy, he⟩ | ⟨-, -, u, hu, he⟩ | ⟨hidle, -, -, u, hu, he⟩ | ⟨-, -, -, rfl⟩
  · exact txEmit_offReceive hbusy he
  · have hsrc : u.txSrc = .data := by rw [(startData_eq_ok.1 hu).2.2]
    exact (startData_offReceive hu).trans (txEmit_offReceive (by rw [hsrc]; decide) he)
  · have hsrc : u.txSrc = .ack := by rw [← Except.ok.inj ((startAck_eq P s).symm.trans hu)]
    exact (startAck_offReceive hidle hu).trans (txEmit_offReceive (by rw [hsrc]; decide) he)
  · exact respond_offReceive _ s

end Sys2Proof.Machine
end

section
/-! The ring and the scanner: RX_BYTE keeps the invariant and the stalled frame, and a scan from any state of the
invariant ends in R36 as worded. -/

namespace Sys2Proof.Machine

variable {P : Params} {s t : State}

/-! ## RX_BYTE -/

/-- At the frame-start position nothing is asked of the ring but its bounds. -/
theorem receiveInv_of_seeking (hhead : s.rbHead < P.rbSize) (hused : s.rbUsed ≤ P.rbSize) (hrx : s.rxState = .seeking)
    (hlen : s.rxLen = 0#8) : ReceiveInv P s where
  head_lt := hhead
  used_le := hused
  seeking_len _ := hlen
  candidate hne := absurd hrx hne
  complete_used hc := by rw [hrx] at hc; cases hc

theorem stalledFrameValid_of_seeking (hrx : s.rxState = .seeking) : StalledFrameValid P s := fun hc => by
  rw [hrx] at hc; cases hc

theorem completeIsData_of_seeking (hrx : s.rxState = .seeking) : CompleteIsData P s := fun hc => by
  rw [hrx] at hc; cases hc

/-- A push leaves the unread bytes before the new one as they are, while there is room (R41). -/
theorem memRead_rbPush_room (b : Byte) {i : Nat} (hi : i < s.rbUsed) (hroom : s.rbUsed < P.rbSize) :
    memRead (rbPush P b s).rb (rbOffset P (rbPush P b s) i) = memRead s.rb (rbOffset P s i) := by
  rw [rbPush_room b (by omega)]
  exact memRead_memWrite_other _ (rbOffset_ne P s hi (by omega)) b

theorem ringBytes_rbPush_room (b : Byte) {n : Nat} (hn : n ≤ s.rbUsed) (hroom : s.rbUsed < P.rbSize) :
    ringBytes P n (rbPush P b s) = ringBytes P n s :=
  List.map_congr_left fun _ hi => memRead_rbPush_room b (lt_of_lt_of_le (List.mem_range.1 hi) hn) hroom

/-- A push into a full ring abandons the candidate (R41). -/
theorem rbPush_full_seeking (b : Byte) (h : s.rbUsed = P.rbSize) :
    (rbPush P b s).rxState = .seeking ∧ (rbPush P b s).rxLen = 0#8 := by
  rcases rbMakeRoom_cases P s with ⟨hne, -⟩ | ⟨-, e⟩
  · exact absurd h hne
  · rw [rbPush, e]; exact ⟨rfl, rfl⟩

theorem rbPush_side (b : Byte) (hhead : s.rbHead < P.rbSize) (hs : SideInv P s) : SideInv P (rbPush P b s) := by
  have hring : ∀ k, k < P.rbSize → AreaInv P .rb (memWrite s.rb k b) := fun k hk =>
    (hs.areas .rb).memWrite hk b
  by_cases hfull : s.rbUsed = P.rbSize
  · rw [rbPush_full b hfull hhead]
    exact ⟨areaInv_setAreaMem hs.areas .rb (hring _ hhead), hs.transmit, hs.mailbox, hs.rates⟩
  · rw [rbPush_room b hfull]
    exact ⟨areaInv_setAreaMem hs.areas .rb (hring _ (rbOffset_lt P s _)), hs.transmit, hs.mailbox, hs.rates⟩

theorem rbPush_inv (b : Byte) (h : Inv P s) : Inv P (rbPush P b s) := by
  have hside := rbPush_side b h.rbHead_lt h.side
  have hused := h.rbUsed_le
  by_cases hfull : s.rbUsed = P.rbSize
  · obtain ⟨hrx, hlen⟩ := rbPush_full_seeking b hfull
    refine inv_of_parts hside (receiveInv_of_seeking ?_ ?_ hrx hlen) (completeIsData_of_seeking hrx) <;>
      rw [rbPush_full b hfull h.rbHead_lt]
    · exact Nat.mod_lt _ (rbSize_pos P)
    · exact hused
  · have hroom := rbPush_room b hfull
    refine inv_of_parts hside ?_ (by rw [hroom]; exact h.completeIsData)
    refine
      { head_lt := by rw [hroom]; exact h.rbHead_lt
        used_le := by rw [hroom]; show s.rbUsed + 1 ≤ _; omega
        seeking_len := by rw [hroom]; exact h.seeking_len
        candidate := fun hne => ?_
        complete_used := fun hc => ?_ }
    · have hrx : (rbPush P b s).rxState = s.rxState := by rw [hroom]
      obtain ⟨hpos, hlen, hclass⟩ := h.receive.candidate (hrx ▸ hne)
      rw [memRead_rbPush_room b hpos (by omega), hroom]
      exact ⟨Nat.le_add_left 1 _, hlen, hclass⟩
    · rw [hroom] at hc ⊢
      exact Nat.le_succ_of_le (h.receive.complete_used hc)

theorem rbPushBytes_inv (bytes : List Byte) (h : Inv P s) : Inv P (rbPushBytes P bytes s) := by
  induction bytes generalizing s with
  | nil => exact h
  | cons b bytes ih => exact ih (rbPush_inv b h)

/-- A byte that arrives behind a stalled frame leaves the frame as it is (R41, R75). -/
theorem rbPush_stalledFrameValid (b : Byte) (h : Inv P s) (hv : StalledFrameValid P s) :
    StalledFrameValid P (rbPush P b s) := by
  by_cases hfull : s.rbUsed = P.rbSize
  · exact stalledFrameValid_of_seeking (rbPush_full_seeking b hfull).1
  · have hroom := rbPush_room b hfull
    have hused := h.rbUsed_le
    intro hc
    have hcs : s.rxState = .frameComplete := by rw [hroom] at hc; exact hc
    have hlen : (rbPush P b s).rxLen = s.rxLen := by rw [hroom]
    have hseen : (rbPush P b s).seqLastSeen = s.seqLastSeen := by rw [hroom]
    rw [hlen, hseen, ringBytes_rbPush_room b (h.receive.complete_used hcs) (by omega)]
    exact hv hcs

/-- RX_BYTE keeps R36 as worded when it does not bring the candidate's last byte (R72). -/
theorem rbPush_r36 (b : Byte) (h : R36 P s) (hshort : ¬(s.rxState = .accumulating ∧ s.rbUsed + 1 = s.rxLen.toNat)) :
    R36 P (rbPush P b s) := by
  refine
    { rbPush_inv b h.toInv with
      accumulating_short := fun hrx => ?_
      stalled_valid := rbPush_stalledFrameValid b h.toInv h.stalled_valid
      stalled_mailbox := fun hrx => ?_ } <;>
    by_cases hfull : s.rbUsed = P.rbSize
  · rw [(rbPush_full_seeking b hfull).1] at hrx; cases hrx
  · rw [rbPush_room b hfull] at hrx ⊢
    have hlt := h.accumulating_short hrx
    have hne : s.rbUsed + 1 ≠ s.rxLen.toNat := fun e => hshort ⟨hrx, e⟩
    show s.rbUsed + 1 < s.rxLen.toNat
    omega
  · rw [(rbPush_full_seeking b hfull).1] at hrx; cases hrx
  · rw [rbPush_room b hfull] at hrx ⊢
    exact h.stalled_mailbox hrx

/-! ## SCAN's loop ends by itself -/

/-- What each pass of SCAN makes smaller (log 11): three for each unread byte, and what the candidate has yet to go
through. -/
def scanMeasure (s : State) : Nat :=
  3 * s.rbUsed +
    match s.rxState with
    | .seeking => 2
    | .accumulating => 1
    | .frameComplete => 0

theorem scanMeasure_lt_scanFuel (s : State) : scanMeasure s < scanFuel s := by
  unfold scanMeasure scanFuel
  split <;> omega

theorem scanMeasure_stepSeek (hrx : s.rxState = .seeking) (h : stepSeek P s = .ok t) :
    scanMeasure t < scanMeasure s := by
  obtain ⟨hpos, ⟨-, rfl⟩ | ⟨-, rfl⟩ | ⟨-, rfl⟩⟩ := stepSeek_cases h <;> simp only [scanMeasure, hrx] <;> omega

/-- SCAN's bound never ends it (R73, log 11): from an invariant of the passes each of which comes nearer to the end, the
scan ends with nothing unread, with a candidate too short, or with a stall. -/
theorem scan_ends {I Q : State → Prop}
    (seek : ∀ s t, I s → s.rxState = .seeking → stepSeek P s = .ok t → I t)
    (complete : ∀ s, I s → s.rxState = .accumulating → s.rxLen.toNat ≤ s.rbUsed → I { s with rxState := .frameComplete })
    (progress : ∀ s t, I s → s.rxState = .frameComplete → stepComplete P s = .ok (.progress t) →
      I t ∧ scanMeasure t < scanMeasure s)
    (empty : ∀ s, I s → s.rxState = .seeking → Q s)
    (short : ∀ s, I s → s.rxState = .accumulating → s.rbUsed < s.rxLen.toNat → Q s)
    (stall : ∀ s t, I s → s.rxState = .frameComplete → stepComplete P s = .ok (.stall t) → Q t)
    (hs : I s) (h : scan P s = .ok t) : Q t := by
  have loop : ∀ fuel s, I s → scanMeasure s < fuel → scanLoop P fuel s = .ok t → Q t := by
    intro fuel
    induction fuel with
    | zero => intro s _ hlt; omega
    | succ fuel ih =>
      intro s hs hlt h
      simp only [scanLoop] at h
      split at h
      · next hrx =>
        split at h
        · rw [← Except.ok.inj h]; exact empty s hs hrx
        · obtain ⟨u, hu, h⟩ := run_bind_eq_ok.1 h
          have := scanMeasure_stepSeek hrx hu
          exact ih u (seek s u hs hrx hu) (by omega) h
      · next hrx =>
        split at h
        · next hshort => rw [← Except.ok.inj h]; exact short s hs hrx hshort
        · refine ih _ (complete s hs hrx (by omega)) ?_ h
          simp only [scanMeasure, hrx] at hlt ⊢
          omega
      · next hrx =>
        obtain ⟨r, hr, h⟩ := run_bind_eq_ok.1 h
        cases r with
        | stall u => rw [← Except.ok.inj h]; exact stall s u hs hrx hr
        | progress u =>
          obtain ⟨hu, hsmaller⟩ := progress s u hs hrx hr
          exact ih u hu (by omega) h
  exact loop _ s hs (scanMeasure_lt_scanFuel s) h

/-! ## One pass -/

/-- What every pass of SCAN keeps: the invariant, but that a complete candidate may still be an ACK frame. -/
structure ScanInv (P : Params) (s : State) : Prop where
  side : SideInv P s
  receive : ReceiveInv P s

theorem Inv.scanInv (h : Inv P s) : ScanInv P s := ⟨h.side, h.receive⟩

theorem stepSeek_scanInv (hi : ScanInv P s) (hrx : s.rxState = .seeking) (h : stepSeek P s = .ok t) : ScanInv P t := by
  have hside := hi.side
  have hmod := Nat.mod_lt (s.rbHead + 1) (rbSize_pos P)
  have hused : s.rbUsed - 1 ≤ P.rbSize := le_trans (Nat.sub_le _ _) hi.receive.used_le
  have hlen := hi.receive.seeking_len hrx
  obtain ⟨hpos, ⟨-, rfl⟩ | ⟨-, rfl⟩ | ⟨hclass, rfl⟩⟩ := stepSeek_cases h
  · exact ⟨{ hside with }, receiveInv_of_seeking hmod hused hrx hlen⟩
  · exact ⟨{ hside with }, receiveInv_of_seeking hmod hused hrx hlen⟩
  · exact
      { side := { hside with }
        receive :=
          { hi.receive with
            seeking_len := nofun
            candidate := fun _ => ⟨hpos, rfl, hclass⟩
            complete_used := nofun } }

theorem complete_scanInv (hi : ScanInv P s) (hrx : s.rxState = .accumulating) (hused : s.rxLen.toNat ≤ s.rbUsed) :
    ScanInv P { s with rxState := .frameComplete } where
  side := ⟨hi.side.areas, hi.side.transmit, hi.side.mailbox, hi.side.rates⟩
  receive :=
    { hi.receive with
      seeking_len := nofun
      candidate := fun _ => hi.receive.candidate (by rw [hrx]; decide)
      complete_used := fun _ => hused }

/-- A complete candidate begins with its length byte and holds a sequence byte and a checksum (R54, R55). -/
theorem ringBytes_candidate (hi : ReceiveInv P s) (hrx : s.rxState = .frameComplete) :
    ∃ sq tail, ringBytes P s.rxLen.toNat s = s.rxLen :: sq :: tail ∧ tail.length + 2 = s.rxLen.toNat := by
  obtain ⟨-, hlen, hclass⟩ := hi.candidate (by rw [hrx]; decide)
  obtain ⟨n, hn⟩ := Nat.exists_eq_add_of_le' (three_le_of_frame hclass)
  refine ⟨memRead s.rb (rbOffset P s 1), (List.range (n + 1)).map fun i => memRead s.rb (rbOffset P s (i + 2)), ?_, ?_⟩
  · rw [ringBytes, hn, List.range_succ_eq_map, List.range_succ_eq_map]
    simp [← hlen, Function.comp_def]
  · simp [hn]

/-- Everything `step_complete` can do with the complete candidate `len :: sq :: tail` (R75): skip a byte, stall before
the full mailbox, or consume the frame. -/
theorem stepComplete_cases (hi : ScanInv P s) (hrx : s.rxState = .frameComplete) {sq : Byte} {tail : List Byte}
    (hg : ringBytes P s.rxLen.toNat s = s.rxLen :: sq :: tail) {r : ScanProgress} (h : stepComplete P s = .ok r) :
    (∃ t, skipByte P (candidateState P s) = .ok t ∧ r = .progress t)
    ∨ ((s.rxLen :: sq :: tail).getLast? = some (P.cs (s.rxLen :: sq :: tail).dropLast)
        ∧ mustStall (seqOwn sq) s = true ∧ r = .stall (candidateState P s))
    ∨ ∃ t, consume P s.rxLen sq tail (candidateState P s) = .ok t ∧ r = .progress (seekAgain t) := by
  obtain ⟨-, -, hclass⟩ := hi.receive.candidate (by rw [hrx]; decide)
  rw [stepComplete_eq (hi.side.areas .scratch).1 (hi.receive.complete_used hrx) (le_maxFrameLen_of_frame hclass) hg] at h
  split at h
  · cases hs : skipByte P (candidateState P s) with
    | error e => rw [hs] at h; cases h
    | ok t => rw [hs] at h; exact .inl ⟨t, rfl, (Except.ok.inj h).symm⟩
  · next hvalid =>
    split at h
    · next hstall => exact .inr (.inl ⟨not_not.1 hvalid, hstall, (Except.ok.inj h).symm⟩)
    · cases hc : consume P s.rxLen sq tail (candidateState P s) with
      | error e => rw [hc] at h; cases h
      | ok t => rw [hc] at h; exact .inr (.inr ⟨t, rfl, (Except.ok.inj h).symm⟩)

/-- Copying the candidate into `scratch` keeps what a pass keeps (R75, R38). -/
theorem candidateState_side (hi : ScanInv P s) (hrx : s.rxState = .frameComplete) : SideInv P (candidateState P s) := by
  obtain ⟨-, -, hclass⟩ := hi.receive.candidate (by rw [hrx]; decide)
  have hsize : 0 + (ringBytes P s.rxLen.toNat s).length ≤ areaSize P .scratch := by
    rw [ringBytes_length, Nat.zero_add]
    exact le_maxFrameLen_of_frame hclass
  exact ⟨areaInv_setAreaMem hi.side.areas .scratch ((hi.side.areas .scratch).memWriteBytes hsize), hi.side.transmit,
    hi.side.mailbox, hi.side.rates⟩

/-- The checksum failure drops at least one byte and goes back to the frame-start position (R75). -/
theorem skipByte_scanInv (hs : SideInv P s) (hused : s.rbUsed ≤ P.rbSize) (h : skipByte P s = .ok t) :
    ScanInv P t ∧ scanMeasure t < scanMeasure s := by
  obtain ⟨hpos, rfl⟩ := skipByte_eq_ok.1 h
  refine ⟨⟨{ hs with }, receiveInv_of_seeking ?_ ?_ rfl rfl⟩, ?_⟩
  · exact Nat.mod_lt _ (rbSize_pos P)
  · exact le_trans (Nat.sub_le _ _) hused
  · simp only [scanMeasure]; omega

/-- `inbound_data` keeps the invariant's parts off the ring when the payload has a length the mailbox can hold (R82). -/
theorem inboundData_side {own : Nibble} {p : List Byte} (hp : P.minMsgLen ≤ p.length) (hs : SideInv P s)
    (h : inboundData P own p s = .ok t) : SideInv P t := by
  rcases inboundData_cases h with ⟨-, rfl⟩ | ⟨-, -, rfl⟩ | ⟨-, -, hmax, rfl⟩
  · exact { hs with }
  · exact { hs with }
  · refine ⟨?_, hs.transmit, zeroOrIn_payload hp hmax, hs.rates⟩
    exact areaInv_setAreaMem hs.areas .slotRx ((hs.areas .slotRx).memWriteBytes (by simpa [areaSize] using hmax))

theorem inboundData_ring {own : Nibble} {p : List Byte} (h : inboundData P own p s = .ok t) :
    t.rbHead = s.rbHead ∧ t.rbUsed = s.rbUsed := by
  rcases inboundData_cases h with ⟨-, rfl⟩ | ⟨-, -, rfl⟩ | ⟨-, -, -, rfl⟩ <;> exact ⟨rfl, rfl⟩

theorem afterAck_side {len sq : Byte} (hs : SideInv P s) : SideInv P (afterAck P len sq s) :=
  inboundAck_side _ { hs with }

theorem afterAck_ring (len sq : Byte) (s : State) :
    (afterAck P len sq s).rbHead = (s.rbHead + len.toNat) % P.rbSize
    ∧ (afterAck P len sq s).rbUsed = s.rbUsed - len.toNat := by
  rw [afterAck, inboundAck_frame]
  exact ⟨rfl, rfl⟩

theorem consume_ring {len sq : Byte} {tail : List Byte} (h : consume P len sq tail s = .ok t) :
    t.rbHead = (s.rbHead + len.toNat) % P.rbSize ∧ t.rbUsed = s.rbUsed - len.toNat ∧ len.toNat ≤ s.rbUsed := by
  obtain ⟨hle, h⟩ := consume_eq_ok.1 h
  obtain ⟨hhead, hused⟩ := afterAck_ring (P := P) len sq s
  split at h
  · obtain ⟨ehead, eused⟩ := inboundData_ring h
    exact ⟨ehead.trans hhead, eused.trans hused, hle⟩
  · rw [h]; exact ⟨hhead, hused, hle⟩

theorem consume_side {len sq : Byte} {tail : List Byte} (hclass : lenClass P len = .ack ∨ lenClass P len = .data)
    (htail : tail.length + 2 = len.toNat) (hs : SideInv P s) (h : consume P len sq tail s = .ok t) : SideInv P t := by
  obtain ⟨-, h⟩ := consume_eq_ok.1 h
  split at h
  · next hlong =>
    refine inboundData_side ?_ (afterAck_side hs) h
    rw [List.length_dropLast]
    have hdata := data_of_long hclass hlong
    have := range_of_data hdata
    omega
  · rw [h]; exact afterAck_side hs

/-- A pass of `step_complete` that goes on keeps what every pass keeps and takes at least one byte off the ring (R75). -/
theorem stepComplete_progress (hi : ScanInv P s) (hrx : s.rxState = .frameComplete)
    (h : stepComplete P s = .ok (.progress t)) : ScanInv P t ∧ scanMeasure t < scanMeasure s := by
  obtain ⟨sq, tail, hg, htail⟩ := ringBytes_candidate hi.receive hrx
  have hside := candidateState_side hi hrx
  rcases stepComplete_cases hi hrx hg h with ⟨u, hu, e⟩ | ⟨-, -, e⟩ | ⟨u, hu, e⟩
  · cases e
    exact skipByte_scanInv (s := candidateState P s) hside hi.receive.used_le hu
  · cases e
  · cases e
    obtain ⟨-, -, hclass⟩ := hi.receive.candidate (by rw [hrx]; decide)
    have hside := consume_side hclass htail hside hu
    obtain ⟨hhead, hused, hle⟩ := consume_ring hu
    have hused : u.rbUsed = s.rbUsed - s.rxLen.toNat := hused
    have hle : s.rxLen.toNat ≤ s.rbUsed := hle
    have := hi.receive.used_le
    refine ⟨⟨⟨fun a => by rw [areaMem_seekAgain]; exact hside.areas a, hside.transmit, hside.mailbox, hside.rates⟩,
      receiveInv_of_seeking ?_ ?_ rfl rfl⟩, ?_⟩
    · exact hhead ▸ Nat.mod_lt _ (rbSize_pos P)
    · show u.rbUsed ≤ _
      omega
    · simp only [scanMeasure, seekAgain, hrx, hused]
      omega

/-- What makes `step_complete` stall (R75): a data frame, new, and no room for it. -/
theorem mustStall_iff {own : Nibble} :
    mustStall own s = true ↔ overhead < s.rxLen.toNat ∧ own ≠ 0#4 ∧ own ≠ s.seqLastSeen ∧ s.slotRxLen ≠ 0#8 := by
  simp [mustStall, and_assoc]

/-- A scan that stalls leaves R36 as worded, item 11 with all its clauses (R75). -/
theorem stepComplete_stall (hi : ScanInv P s) (hrx : s.rxState = .frameComplete)
    (h : stepComplete P s = .ok (.stall t)) : R36 P t := by
  obtain ⟨sq, tail, hg, -⟩ := ringBytes_candidate hi.receive hrx
  have hside := candidateState_side hi hrx
  rcases stepComplete_cases hi hrx hg h with ⟨u, -, e⟩ | ⟨hvalid, hstall, e⟩ | ⟨u, -, e⟩
  · cases e
  · cases e
    obtain ⟨hlong, hne, hnew, hfull⟩ := mustStall_iff.1 hstall
    obtain ⟨-, -, hclass⟩ := hi.receive.candidate (by rw [hrx]; decide)
    have hdata := data_of_long hclass hlong
    have hreceiver : SameReceiver s (candidateState P s) := ⟨rfl, rfl, rfl, rfl, rfl, rfl⟩
    exact
      { inv_of_parts hside (hi.receive.of_sameReceiver hreceiver) (fun _ => hdata) with
        accumulating_short := fun e => by cases hrx.symm.trans e
        stalled_valid := fun _ => ⟨sq, tail, hg, hvalid, hne, hnew⟩
        stalled_mailbox := fun _ => hfull }
  · cases e

theorem r36_of_seeking (hi : ScanInv P s) (hrx : s.rxState = .seeking) : R36 P s :=
  { inv_of_parts hi.side hi.receive (completeIsData_of_seeking hrx) with
    accumulating_short := fun e => by cases hrx.symm.trans e
    stalled_valid := stalledFrameValid_of_seeking hrx
    stalled_mailbox := fun e => by cases hrx.symm.trans e }

theorem r36_of_short (hi : ScanInv P s) (hrx : s.rxState = .accumulating) (hshort : s.rbUsed < s.rxLen.toNat) :
    R36 P s :=
  { inv_of_parts hi.side hi.receive (fun e => by cases hrx.symm.trans e) with
    accumulating_short := fun _ => hshort
    stalled_valid := fun e => by cases hrx.symm.trans e
    stalled_mailbox := fun e => by cases hrx.symm.trans e }

/-- A scan from any state of the invariant ends in R36 as worded (R73, R36). -/
theorem scan_r36 (hi : Inv P s) (h : scan P s = .ok t) : R36 P t :=
  scan_ends (I := ScanInv P) (Q := R36 P)
    (seek := fun _ _ => stepSeek_scanInv)
    (complete := fun _ => complete_scanInv)
    (progress := fun _ _ => stepComplete_progress)
    (empty := fun _ => r36_of_seeking)
    (short := fun _ => r36_of_short)
    (stall := fun _ _ => stepComplete_stall)
    hi.scanInv h

end Sys2Proof.Machine
end

section
/-! The obligations on R36 (10_state.md), each from one account of what an instruction can do to the receive side. -/

namespace Sys2Proof.Machine

variable {s t : State}

/-! ## What an instruction can do -/

/-- The instructions whose meaning runs SCAN: TICK, and a wire unit's receipt (R102, R73). -/
def Scans (i : Instr) : Prop := i.isWire = true ∨ ∃ now, i = .tick now

theorem tickWith_r36 {P : Params} {now : Word} (hi : Inv P s) (h : tickWith P now s = .ok t) : R36 P t := by
  obtain ⟨u, hu, h⟩ := run_bind_eq_ok.1 h
  obtain ⟨v, hv, h⟩ := run_bind_eq_ok.1 h
  obtain rfl := Except.ok.inj h
  have hclock : OffRing P s { s with nowReg := now } :=
    ⟨fun hs => { hs with }, ⟨rfl, rfl, rfl, rfl, rfl, rfl⟩⟩
  exact ((frameOrTimer_offReceive hv).trans (baudApply_offReceive v)).r36 (scan_r36 (hclock.inv hi) hu)

theorem receiveUnit_r36 {P : Params} {bytes : List Byte} (hi : Inv P s) (h : receiveUnit P bytes s = .ok t) :
    R36 P t :=
  scan_r36 (rbPushBytes_inv bytes hi) h

/-- Every instruction that scans ends in R36 as worded (R73). -/
theorem exec_r36_of_scans {i : Instr} (hscan : Scans i) (hi : Inv Config.params s) (h : exec i s = .next t) :
    R36 Config.params t := by
  cases i with
  | tick now => exact tickWith_r36 hi (runOutcome_eq_next.1 h)
  | wIdle => exact receiveUnit_r36 hi (runOutcome_eq_next.1 h)
  | wAck own ackn chk => exact receiveUnit_r36 hi (runOutcome_eq_next.1 h)
  | wData own ackn p chk => exact receiveUnit_r36 hi (runOutcome_eq_next.1 h)
  | wBadlen len => exact receiveUnit_r36 hi (runOutcome_eq_next.1 h)
  | _ =>
    obtain hwire | ⟨now, e⟩ := hscan
    · cases hwire
    · cases e

/-- What each instruction does to the receive side: RESET clears it, RX_BYTE pushes a byte, TICK and the wire units scan,
DRAIN empties the mailbox, and every other one leaves it. -/
theorem exec_cases {i : Instr} (h : exec i s = .next t) :
    (i = .reset ∧ t = resetState Config.params s)
    ∨ (∃ b, i = .rxByte b ∧ t = rbPush Config.params b s)
    ∨ Scans i
    ∨ (i = .drain ∧ OffRing Config.params s t)
    ∨ OffReceive Config.params s t := by
  cases i with
  | reset => exact .inl ⟨rfl, (Host.Outcome.next.inj h).symm⟩
  | rxByte b => exact .inr (.inl ⟨b, rfl, (Host.Outcome.next.inj h).symm⟩)
  | tick now => exact .inr (.inr (.inl (.inr ⟨now, rfl⟩)))
  | wIdle | wAck own ackn chk | wData own ackn p chk | wBadlen len => exact .inr (.inr (.inl (.inl rfl)))
  | drain => exact .inr (.inr (.inr (.inl ⟨rfl, drainWith_offRing (runOutcome_eq_next.1 h)⟩)))
  | txByte => exact .inr (.inr (.inr (.inr (txByteWith_offReceive (runOutcome_eq_next.1 h)))))
  | submit p => exact .inr (.inr (.inr (.inr (submitWith_offReceive (runOutcome_eq_next.1 h)))))
  | readReg r =>
    exact .inr (.inr (.inr (.inr (Host.Outcome.next.inj h ▸ readRegWith_offReceive r s))))
  | setBaud v => exact .inr (.inr (.inr (.inr (execSetBaud_offReceive h))))
  | setDynConfig en min => exact .inr (.inr (.inr (.inr (execSetDynConfig_offReceive h))))
  | proposeBaud v => exact .inr (.inr (.inr (.inr (execProposeBaud_offReceive h))))
  | invalid op => exact .inr (.inr (.inr (.inr (execInvalid_offReceive (op := op) h))))

/-! ## RESET -/

/-- RESET's state is the state at power-up but for the stream and what was emitted (R35, R105). -/
theorem resetState_offReceive (s : State) :
    OffReceive Config.params State.reset (resetState Config.params s) :=
  ⟨⟨fun hs => { hs with }, ⟨rfl, rfl, rfl, rfl, rfl, rfl⟩⟩, rfl⟩

/-- Settles O51: the scanner is at rest, so the clauses on a candidate ask nothing. -/
theorem resetMeetsTheInvariant : Obligations.ResetMeetsTheInvariant := r36_of_seeking Tests.inv_reset.scanInv rfl

theorem resetState_r36 (s : State) : R36 Config.params (resetState Config.params s) :=
  (resetState_offReceive s).r36 resetMeetsTheInvariant

theorem atReset_resetState (P : Params) (s : State) : AtReset P (resetState P s) where
  ring := ⟨rfl, rfl⟩
  receive := ⟨rfl, rfl⟩
  lengths := ⟨rfl, rfl, rfl⟩
  transmit := ⟨rfl, rfl, rfl, rfl, rfl⟩
  sequence := ⟨rfl, rfl, rfl⟩
  time := ⟨rfl, rfl⟩
  zeroRun := rfl
  errors := ⟨rfl, rfl, rfl, rfl⟩
  messages := ⟨rfl, rfl⟩
  rates := ⟨rfl, rfl, rfl⟩
  change := rfl
  dynamic := ⟨rfl, rfl⟩

/-- RESET at power-up changes nothing. -/
theorem resetState_reset : resetState Config.params State.reset = State.reset := rfl

theorem areaMem_resetState (P : Params) (s : State) (a : Area) : areaMem (resetState P s) a = [] := by
  cases a <;> rfl

/-- Settles O34: RESET writes each field of R35, and from the power-up state it changes nothing. -/
theorem resetValues : Obligations.ResetValues :=
  ⟨resetState_reset ▸ atReset_resetState Config.params State.reset,
    fun s => ⟨resetState Config.params s, rfl, atReset_resetState Config.params s⟩⟩

/-- Settles O35: after RESET the areas list nothing, and an unlisted byte reads 0 (log 2). -/
theorem resetLeavesTheStream : Obligations.ResetLeavesTheStream := by
  intro s
  have hread : ∀ s a j, memRead (areaMem (resetState Config.params s) a) j = 0#8 := fun s a j => by
    rw [areaMem_resetState, memRead_nil, unlistedByte]
  exact ⟨resetState Config.params s, rfl, rfl, rfl, rfl, rfl, fun a j => ⟨hread s a j, hread State.reset a j⟩⟩

/-! ## What every instruction keeps -/

theorem exec_inv {i : Instr} (hi : Inv Config.params s) (h : exec i s = .next t) : Inv Config.params t := by
  rcases exec_cases h with ⟨-, rfl⟩ | ⟨b, -, rfl⟩ | hscan | ⟨-, hoff⟩ | hoff
  · exact (resetState_r36 s).toInv
  · exact rbPush_inv b hi
  · exact (exec_r36_of_scans hscan hi h).toInv
  · exact hoff.inv hi
  · exact hoff.inv hi

/-- Taking a command off the stream touches no field of the invariant (R106; log 3). -/
theorem withCmdIn_inv (rest : List Byte) (hi : Inv Config.params s) : Inv Config.params { s with cmdIn := rest } :=
  have hoff : OffRing Config.params s { s with cmdIn := rest } :=
    ⟨fun hs => { hs with }, ⟨rfl, rfl, rfl, rfl, rfl, rfl⟩⟩
  hoff.inv hi

theorem step_inv (hi : Inv Config.params s) (h : step s = .next t) : Inv Config.params t := by
  unfold step at h
  rcases fetch_cases s with ⟨-, e⟩ | ⟨i, rest, -, e⟩ | ⟨m, -, e⟩ <;> rw [e] at h
  · exact Host.Outcome.next.inj h ▸ hi
  · exact exec_inv (withCmdIn_inv rest hi) h
  · cases h

/-- Settles O50: the parts of the invariant off the ring by the operation's own rule, the ring's by what the instruction
does to the receive side; a scan ends because its bound is never reached. -/
theorem everyStepKeepsTheInvariant : Obligations.EveryStepKeepsTheInvariant :=
  ⟨fun _ _ _ hi h => exec_inv hi h, fun _ _ hi h => step_inv hi h⟩

/-- Settles O52: between scans only RX_BYTE touches the ring, and it writes behind the frame or abandons it; a scan that
ends in FRAME_COMPLETE has judged the frame afresh. -/
theorem stalledFrameStaysValid : Obligations.StalledFrameStaysValid := by
  intro i s t hi hv h
  rcases exec_cases h with ⟨-, rfl⟩ | ⟨b, -, rfl⟩ | hscan | ⟨-, hoff⟩ | hoff
  · exact stalledFrameValid_of_seeking rfl
  · exact rbPush_stalledFrameValid b hi hv
  · exact (exec_r36_of_scans hscan hi h).stalled_valid
  · exact hv.of_sameReceiver hoff.receiver
  · exact hv.of_sameReceiver hoff.receiver

/-- Settles O59: a scan gives R36 back from any state of the invariant, and without one only the two excepted cases touch
what items 10 and 11 add. -/
theorem r36AsWordedIsKept : Obligations.R36AsWordedIsKept := by
  refine ⟨fun i s t hi hscan h => exec_r36_of_scans hscan hi h, fun i s t hr hpush hdrain h => ?_⟩
  rcases exec_cases h with ⟨-, rfl⟩ | ⟨b, rfl, rfl⟩ | hscan | ⟨rfl, hoff⟩ | hoff
  · exact resetState_r36 s
  · exact rbPush_r36 b hr fun hlast => hpush ⟨⟨b, rfl⟩, hlast⟩
  · exact exec_r36_of_scans hscan hr.toInv h
  · exact hoff.r36 hr fun hrx => absurd ⟨rfl, hrx⟩ hdrain
  · exact hoff.r36 hr

/-! ## The two clauses that are not kept (log 6) -/

/-- A candidate of four bytes of which three have come. -/
def threeOfFourState : State := { Tests.waitingState with rbUsed := 3 }

theorem inv_threeOfFour : Inv Config.params threeOfFourState :=
  have hside := Tests.inv_waiting.side
  inv_of_parts { hside with }
    { Tests.inv_waiting.receive with
      used_le := le_trans (by decide) (four_le_rbSize Config.params)
      candidate := fun hne => by
        obtain ⟨-, hlen, hclass⟩ := Tests.inv_waiting.receive.candidate hne
        exact ⟨by decide, hlen, hclass⟩
      complete_used := nofun }
    Tests.inv_waiting.completeIsData

/-- Refutes O53: the fourth byte of a candidate of four comes by RX_BYTE, which does not scan (R72), so all four bytes are
unread and the scanner still accumulates. -/
theorem not_accumulatingCandidateStaysShort : ¬ Obligations.AccumulatingCandidateStaysShort := by
  intro h
  have hroom : threeOfFourState.rbUsed ≠ Config.params.rbSize := by
    have := four_le_rbSize Config.params
    show 3 ≠ _
    omega
  have hshort := h (.rxByte 0x00) threeOfFourState (rbPush Config.params 0x00 threeOfFourState) inv_threeOfFour
    (fun _ => by decide) rfl
  rw [rbPush_room 0x00 hroom] at hshort
  exact absurd (hshort rfl) (by decide)

/-- Refutes O54: DRAIN empties the mailbox before the stalled frame, which stays stalled until a TICK scans (R104, R125). -/
theorem not_stalledFrameKeepsMailboxFull : ¬ Obligations.StalledFrameKeepsMailboxFull := by
  intro h
  have hdrain : exec .drain Tests.stalledState =
      .next (respond (1#8 :: memReadBytes [] 0 1) (emptySlotRx Config.params Tests.stalledState)) :=
    runOutcome_eq_next.2 (drainWith_eq_ok.2 (.inr ⟨by decide, Tests.one_le_maxMsgLen, rfl⟩))
  exact h .drain Tests.stalledState _ Tests.inv_stalled (fun _ => by decide) hdrain rfl rfl

end Sys2Proof.Machine
end

section
/-! READ_REG (10_state.md R30 to R33): the register map, and the fields of the registers made of several. -/

namespace Sys2Proof.Machine

variable {P : Params} {s : State}

/-! ## The fields of a register -/

/-- STATUS (R31): its one-bit fields. -/
theorem regStatus_bits (P : Params) (s : State) :
    (regStatus P s).getLsbD 0 = decide (s.slotRxLen ≠ 0#8)
    ∧ (regStatus P s).getLsbD 1 = decide (s.slotTxLen ≠ 0#8 ∨ s.sendLen ≠ 0#8)
    ∧ (regStatus P s).getLsbD 2 = decide (s.sendLen ≠ 0#8)
    ∧ (regStatus P s).getLsbD 3 = s.ackOwed
    ∧ (regStatus P s).getLsbD 4 = s.baudChange
    ∧ (regStatus P s).getLsbD 9 = s.txSent
    ∧ (regStatus P s).getLsbD 10 = s.txDue
    ∧ (regStatus P s).getLsbD 11 = s.txRel
    ∧ (regStatus P s).getLsbD 12 = decide (P.zeroRunIdle ≤ s.zeroRun.toNat) := by
  simp only [regStatus, BitVec.getLsbD_append]
  simp [rxAvail, txBusy, sendPending, peerIdle]

theorem regStatus_rxState (P : Params) (s : State) : (regStatus P s).extractLsb' 5 2 = rxStateCode s.rxState := by
  simp (disch := decide) only [regStatus, BitVec.extractLsb'_append_eq_of_add_le, BitVec.extractLsb'_append_eq_of_le]
  simp

theorem regStatus_txSrc (P : Params) (s : State) : (regStatus P s).extractLsb' 7 2 = txSrcCode s.txSrc := by
  simp (disch := decide) only [regStatus, BitVec.extractLsb'_append_eq_of_add_le, BitVec.extractLsb'_append_eq_of_le]
  simp

theorem regStatus_high (P : Params) (s : State) : (regStatus P s).extractLsb' 13 19 = 0#19 := by
  simp (disch := decide) only [regStatus, BitVec.extractLsb'_append_eq_of_le]
  simp

/-- SEQ (R32). -/
theorem regSeq_fields (s : State) :
    (regSeq s).extractLsb' 0 4 = s.seqCur ∧ (regSeq s).extractLsb' 4 4 = s.seqLastSeen
    ∧ (regSeq s).extractLsb' 8 8 = s.txIdx ∧ (regSeq s).extractLsb' 16 16 = 0#16 := by
  simp (disch := decide) only [regSeq, BitVec.extractLsb'_append_eq_of_add_le, BitVec.extractLsb'_append_eq_of_le]
  simp

/-- LENGTHS (R33). -/
theorem regLengths_fields (s : State) :
    (regLengths s).extractLsb' 0 8 = s.sendLen ∧ (regLengths s).extractLsb' 8 8 = s.slotTxLen
    ∧ (regLengths s).extractLsb' 16 8 = s.slotRxLen ∧ (regLengths s).extractLsb' 24 8 = s.rxLen := by
  simp (disch := decide) only [regLengths, BitVec.extractLsb'_append_eq_of_add_le, BitVec.extractLsb'_append_eq_of_le]
  simp

theorem regDynCfg_eq (s : State) : regDynCfg s = if s.dynEnable then 1#32 else 0#32 := by
  unfold regDynCfg
  cases s.dynEnable <;> rfl

/-- RB_USED is the count itself where 32 bits hold it (R30). -/
theorem regRbUsed_toNat (h : s.rbUsed < 2 ^ 32) : (regRbUsed P s).toNat = s.rbUsed := by
  rw [regRbUsed, if_pos h, BitVec.toNat_ofNat, Nat.mod_eq_of_lt h]

/-! ## Which numbers are assigned -/

theorem regValue_unassigned {r : Byte} (h : 0x11 < r.toNat) : regValue P s r = none := by
  unfold regValue
  split
  case h_19 => rfl
  all_goals omega

theorem regValue_assigned {r : Byte} (h : r.toNat ≤ 0x11) : ∃ v, regValue P s r = some v := by
  unfold regValue
  generalize r.toNat = n at h ⊢
  interval_cases n <;> exact ⟨_, rfl⟩

theorem exec_readReg_unassigned {r : Byte} (h : 0x11 < r.toNat) :
    exec (.readReg r) s = .next
      { s with out := s.out ++ [3#8, 0#8, 0#8, 0#8, 0#8], events := s.events ++ [.invalidCommand] } := by
  show Host.Outcome.next (readRegWith Config.params r s) = _
  rw [readRegWith, regValue_unassigned h]
  rfl

theorem exec_readReg_assigned {r : Byte} {v : Word} (h : regValue Config.params s r = some v) :
    exec (.readReg r) s = .next { s with out := s.out ++ 0#8 :: wordBytes v } := by
  show Host.Outcome.next (readRegWith Config.params r s) = _
  rw [readRegWith, h]
  rfl

/-- Settles O23: the number selects the register's value, and each packed register is taken apart by its own lemma. -/
theorem readRegMap : Obligations.ReadRegMap := by
  intro r s
  refine ⟨exec_readReg_unassigned, fun hle => ?_⟩
  obtain ⟨v, hv⟩ := regValue_assigned (P := Config.params) (s := s) hle
  have value : ∀ {k : Byte} {w : Word}, regValue Config.params s k = some w → r = k → v = w := by
    rintro k w hk rfl
    exact Option.some.inj (hv.symm.trans hk)
  refine ⟨v, exec_readReg_assigned hv, fun hr => ?_, fun hr => ?_, value rfl, value rfl, value rfl, value rfl, value rfl,
    value rfl, value rfl, value rfl, value rfl, fun hr => ?_, value rfl, value rfl, value rfl, fun hr => ?_,
    fun hr hused => ?_, value rfl⟩
  case refine_1 =>
    obtain rfl : v = regStatus Config.params s := value rfl hr
    obtain ⟨h0, h1, h2, h3, h4, h9, h10, h11, h12⟩ := regStatus_bits Config.params s
    rw [regStatus_rxState, regStatus_txSrc]
    exact ⟨h0, h1, h2, h3, h4, fun e => by rw [e]; rfl, fun e => by rw [e]; rfl, fun e => by rw [e]; rfl,
      fun e => by rw [e]; rfl, fun e => by rw [e]; rfl, fun e => by rw [e]; rfl, h9, h10, h11, h12,
      regStatus_high Config.params s⟩
  case refine_2 =>
    obtain rfl : v = regSeq s := value rfl hr
    exact regSeq_fields s
  case refine_3 => exact (value rfl hr).trans (regDynCfg_eq s)
  case refine_4 =>
    obtain rfl : v = regLengths s := value rfl hr
    exact regLengths_fields s
  case refine_5 =>
    obtain rfl : v = regRbUsed Config.params s := value rfl hr
    exact regRbUsed_toNat hused

end Sys2Proof.Machine
end

section
/-! RX_BYTE and the ring (20_memory.md R41, R42; 70_reset_and_hazards.md R126): what one strobe does to the unread bytes,
their count and the overflow counter, then a run of strobes. -/

namespace Sys2Proof.Machine

variable {P : Params} {s : State}

/-! ## One byte -/

theorem rbMakeRoom_of_room (h : s.rbUsed ≠ P.rbSize) : rbMakeRoom P s = s := if_neg h

theorem unread_rbAppend (b : Byte) (hwf : s.rb.wf) (h : s.rbUsed < P.rbSize) :
    unread P (rbAppend P b s) = unread P s ++ [b] := by
  rw [← unread_rbPush_room b hwf h, rbPush, rbMakeRoom_of_room (by omega)]

/-- A full buffer makes room by losing its oldest byte, as a drop of one byte does (R40, R41). -/
theorem unread_rbMakeRoom_full (h : s.rbUsed = P.rbSize) : unread P (rbMakeRoom P s) = (unread P s).drop 1 := by
  have hpos := rbSize_pos P
  rw [← unread_drop (rbDrop_eq_ok (P := P).2 ⟨by omega, rfl⟩), h, rbMakeRoom, if_pos h]
  rfl

theorem rbUsed_rbPush (b : Byte) (hused : s.rbUsed ≤ P.rbSize) :
    (rbPush P b s).rbUsed = min (s.rbUsed + 1) P.rbSize := by
  have hpos := rbSize_pos P
  rcases rbMakeRoom_cases P s with ⟨hne, e⟩ | ⟨hfull, e⟩ <;> rw [rbPush, e, rbAppend_rbUsed]
  · omega
  · show P.rbSize - 1 + 1 = _
    omega

theorem errOverflow_rbPush (b : Byte) (hused : s.rbUsed ≤ P.rbSize) :
    (rbPush P b s).errOverflow = satInc^[s.rbUsed + 1 - P.rbSize] s.errOverflow := by
  rcases rbMakeRoom_cases P s with ⟨hne, e⟩ | ⟨hfull, e⟩ <;> rw [rbPush, e, rbAppend_errOverflow]
  · rw [show s.rbUsed + 1 - P.rbSize = 0 by omega]; rfl
  · rw [show s.rbUsed + 1 - P.rbSize = 1 by omega]; rfl

/-- The new byte comes last; the oldest is lost when the ring would hold one too many (R41). -/
theorem unread_rbPush (b : Byte) (hwf : s.rb.wf) (hused : s.rbUsed ≤ P.rbSize) :
    unread P (rbPush P b s) = (unread P s ++ [b]).drop (s.rbUsed + 1 - P.rbSize) := by
  have hpos := rbSize_pos P
  by_cases hfull : s.rbUsed = P.rbSize
  · have hroom : (rbMakeRoom P s).rbUsed < P.rbSize := by
      rw [rbMakeRoom, if_pos hfull]
      show P.rbSize - 1 < _
      omega
    have hrb : (rbMakeRoom P s).rb = s.rb := by rw [rbMakeRoom, if_pos hfull]; rfl
    rw [rbPush, unread_rbAppend b (hrb ▸ hwf) hroom, unread_rbMakeRoom_full hfull,
      show s.rbUsed + 1 - P.rbSize = 1 by omega, List.drop_append_of_le_length (by simp [unread]; omega)]
  · rw [unread_rbPush_room b hwf (by omega), show s.rbUsed + 1 - P.rbSize = 0 by omega, List.drop_zero]

/-- Settles O11: with room the byte is appended; a full ring first makes room, then appends. -/
theorem rxBytePushes : Obligations.RxBytePushes := by
  intro b s hi
  have hwf : s.rb.wf := hi.mem_wf .rb
  refine ⟨rbPush Config.params b s, rfl, ?_⟩
  split
  · next hfull =>
    refine ⟨?_, fun j => ?_⟩
    · rw [rbPush_full b hfull hi.rbHead_lt, ← hfull]
    · rw [rbPush, rbMakeRoom, if_pos hfull]
      exact memRead_memWrite hwf _ j b
  · next hroom =>
    rw [rbPush_room b hroom]
    exact ⟨rfl, fun j => memRead_memWrite hwf _ j b⟩

/-! ## A run of bytes -/

theorem rbUsed_rbPushBytes (bytes : List Byte) (hi : Inv P s) :
    (rbPushBytes P bytes s).rbUsed = min (s.rbUsed + bytes.length) P.rbSize := by
  have hused := hi.rbUsed_le
  induction bytes generalizing s with
  | nil => show s.rbUsed = min s.rbUsed _; omega
  | cons b bytes ih =>
    have hpush := rbPush_inv b hi
    show (rbPushBytes P bytes (rbPush P b s)).rbUsed = _
    rw [ih hpush hpush.rbUsed_le, rbUsed_rbPush b hused, List.length_cons]
    omega

theorem errOverflow_rbPushBytes (bytes : List Byte) (hi : Inv P s) :
    (rbPushBytes P bytes s).errOverflow = satInc^[s.rbUsed + bytes.length - P.rbSize] s.errOverflow := by
  have hused := hi.rbUsed_le
  induction bytes generalizing s with
  | nil => rw [List.length_nil, show s.rbUsed + 0 - P.rbSize = 0 by omega]; rfl
  | cons b bytes ih =>
    have hpush := rbPush_inv b hi
    show (rbPushBytes P bytes (rbPush P b s)).errOverflow = _
    rw [ih hpush hpush.rbUsed_le, rbUsed_rbPush b hused, errOverflow_rbPush b hused, ← Function.iterate_add_apply,
      List.length_cons]
    congr 2
    omega

/-- The bytes wait in the order they came, but for as many of the oldest as the ring cannot hold (R42, R126). -/
theorem unread_rbPushBytes (bytes : List Byte) (hi : Inv P s) :
    unread P (rbPushBytes P bytes s) = (unread P s ++ bytes).drop (s.rbUsed + bytes.length - P.rbSize) := by
  have hused := hi.rbUsed_le
  induction bytes generalizing s with
  | nil =>
    rw [List.length_nil, List.append_nil, show s.rbUsed + 0 - P.rbSize = 0 by omega, List.drop_zero]
    rfl
  | cons b bytes ih =>
    have hpush := rbPush_inv b hi
    have hlen : s.rbUsed + 1 - P.rbSize ≤ (unread P s ++ [b]).length := by simp [unread]
    show unread P (rbPushBytes P bytes (rbPush P b s)) = _
    rw [ih hpush hpush.rbUsed_le, rbUsed_rbPush b hused, unread_rbPush b (hi.mem_wf .rb) hused,
      ← List.drop_append_of_le_length hlen, List.append_assoc, List.singleton_append, List.drop_drop, List.length_cons]
    congr 1
    omega

theorem execAll_asmRx (bytes : List Byte) (s : State) :
    execAll (asmRx bytes) s = .next (rbPushBytes Config.params bytes s) := by
  induction bytes generalizing s with
  | nil => rfl
  | cons b bytes ih => exact ih (rbPush Config.params b s)

/-- Settles O12, by induction on the bytes: each push loses a byte exactly when the ring is full. -/
theorem overflowLosesOldest : Obligations.OverflowLosesOldest := fun bytes s hi =>
  ⟨rbPushBytes Config.params bytes s, execAll_asmRx bytes s, rbUsed_rbPushBytes bytes hi,
    errOverflow_rbPushBytes bytes hi, unread_rbPushBytes bytes hi⟩

end Sys2Proof.Machine
end

section
/-! What a TICK stores, area by area (20_memory.md R38, R45, R49): the scan writes candidate bytes and at most one
delivered payload, the framing moves the waiting message into the send buffer. -/

namespace Sys2Proof.Machine

variable {P : Params} {s t u : State}

/-- Past an area's size no byte is ever stored (R38). -/
theorem AreaInv.memRead_past {a : Area} {m : Memory} (h : AreaInv P a m) {k : Nat} (hk : areaSize P a ≤ k) :
    memRead m k = unlistedByte := by
  induction m with
  | nil => rfl
  | cons c m ih =>
    have hc := h.2 c List.mem_cons_self
    rw [memRead_cons, if_neg (by omega)]
    exact ih ⟨(memory_wf_cons.1 h.1).2.2, fun d hd => h.2 d (List.mem_cons_of_mem c hd)⟩

/-- A message's length fits its length byte (R8). -/
theorem lengthByte_toNat {n : Nat} (h : n ≤ P.maxMsgLen) : (BitVec.ofNat 8 n).toNat = n := by
  have := P.max_le
  rw [BitVec.toNat_ofNat, Nat.mod_eq_of_lt (by omega)]

/-! ## SCAN -/

/-- What a scan may do to the areas but `scratch`: it fills an empty receive mailbox, once, with the payload it
delivers, and leaves a full one and every other area alone (R76, R82). -/
structure ScanStores (s t : State) : Prop where
  rb : t.rb = s.rb
  ackBuf : t.ackBuf = s.ackBuf
  sendBuf : t.sendBuf = s.sendBuf
  slotTx : t.slotTx = s.slotTx
  slotTxLen : t.slotTxLen = s.slotTxLen
  mailbox_full : s.slotRxLen ≠ 0#8 → t.slotRxLen = s.slotRxLen
  slotRx : ∀ j, s.slotRxLen ≠ 0#8 ∨ t.slotRxLen.toNat ≤ j → memRead t.slotRx j = memRead s.slotRx j

theorem ScanStores.refl (s : State) : ScanStores s s := ⟨rfl, rfl, rfl, rfl, rfl, fun _ => rfl, fun _ _ => rfl⟩

theorem ScanStores.trans (h₁ : ScanStores s t) (h₂ : ScanStores t u) : ScanStores s u where
  rb := h₂.rb.trans h₁.rb
  ackBuf := h₂.ackBuf.trans h₁.ackBuf
  sendBuf := h₂.sendBuf.trans h₁.sendBuf
  slotTx := h₂.slotTx.trans h₁.slotTx
  slotTxLen := h₂.slotTxLen.trans h₁.slotTxLen
  mailbox_full hs := by rw [h₂.mailbox_full (h₁.mailbox_full hs ▸ hs), h₁.mailbox_full hs]
  slotRx j hj := by
    by_cases ht : t.slotRxLen = 0#8
    · have hs : s.slotRxLen ≠ 0#8 → t.slotRxLen ≠ 0#8 := fun hs => h₁.mailbox_full hs ▸ hs
      rw [h₂.slotRx j (hj.imp_left hs), h₁.slotRx j (.inr (by rw [ht]; exact Nat.zero_le j))]
    · rw [h₂.slotRx j (.inl ht), h₁.slotRx j (h₂.mailbox_full ht ▸ hj)]

theorem stepSeek_stores (h : stepSeek P s = .ok t) : ScanStores s t := by
  obtain ⟨-, ⟨-, rfl⟩ | ⟨-, rfl⟩ | ⟨-, rfl⟩⟩ := stepSeek_cases h <;>
    exact { ScanStores.refl s with }

theorem candidateState_stores (P : Params) (s : State) : ScanStores s (candidateState P s) :=
  { ScanStores.refl s with }

theorem skipByte_stores (h : skipByte P s = .ok t) : ScanStores s t := by
  obtain ⟨-, rfl⟩ := skipByte_eq_ok.1 h
  exact { ScanStores.refl s with }

theorem seekAgain_stores (s : State) : ScanStores s (seekAgain s) :=
  { ScanStores.refl s with }

/-- `inbound_data` stores the payload of a new frame, and a new frame finds the mailbox empty (R75, R82). -/
theorem inboundData_stores {own : Nibble} {p : List Byte} (hwf : s.slotRx.wf)
    (hnew : own ≠ 0#4 → own ≠ s.seqLastSeen → s.slotRxLen = 0#8) (h : inboundData P own p s = .ok t) :
    ScanStores s t := by
  rcases inboundData_cases h with ⟨-, rfl⟩ | ⟨-, -, rfl⟩ | ⟨hne, hseen, hlen, rfl⟩
  · exact { ScanStores.refl s with }
  · exact { ScanStores.refl s with }
  · have hempty := hnew hne hseen
    refine ⟨rfl, rfl, rfl, rfl, rfl, fun hfull => absurd hempty hfull, fun j hj => ?_⟩
    have hpast : p.length ≤ j := lengthByte_toNat hlen ▸ hj.resolve_left (not_not.2 hempty)
    exact memRead_memWriteBytes_outside hwf (.inr (by omega))

theorem afterAck_stores (P : Params) (len sq : Byte) (s : State) : ScanStores s (afterAck P len sq s) := by
  rw [afterAck, inboundAck_frame]
  exact { ScanStores.refl s with }

/-- What an ACK cannot change: whether a data frame is new, and whether the mailbox can take it (R80, R82). -/
theorem afterAck_mailbox (P : Params) (len sq : Byte) (s : State) :
    (afterAck P len sq s).seqLastSeen = s.seqLastSeen ∧ (afterAck P len sq s).slotRxLen = s.slotRxLen := by
  rw [afterAck, inboundAck_frame]
  exact ⟨rfl, rfl⟩

/-- A frame that need not stall is consumed with no store into a full mailbox (R75, R76). -/
theorem consume_stores {sq : Byte} {tail : List Byte} (hs : SideInv P s) (hfree : mustStall (seqOwn sq) s = false)
    (h : consume P s.rxLen sq tail s = .ok t) : ScanStores s t := by
  have hack := afterAck_stores P s.rxLen sq s
  obtain ⟨hseen, hmail⟩ := afterAck_mailbox P s.rxLen sq s
  have hside : SideInv P (afterAck P s.rxLen sq s) := afterAck_side hs
  obtain ⟨-, h⟩ := consume_eq_ok.1 h
  split at h
  · next hlong =>
    refine hack.trans (inboundData_stores (hside.areas .slotRx).1 (fun hne hnew => ?_) h)
    by_contra hfull
    have hstall : mustStall (seqOwn sq) s = true := mustStall_iff.2 ⟨hlong, hne, hseen ▸ hnew, hmail ▸ hfull⟩
    exact absurd (hfree.symm.trans hstall) Bool.false_ne_true
  · rw [h]; exact hack

theorem run_map_eq_ok {α β : Type} {x : Run α} {f : α → β} {r : β} :
    x.map f = .ok r ↔ ∃ a, x = .ok a ∧ f a = r := by
  cases x <;> simp [Except.map]

/-- A pass of `step_complete` that goes on has skipped a byte, or consumed a frame that need not stall (R75). -/
theorem stepComplete_progress_cases (hi : ScanInv P s) (hrx : s.rxState = .frameComplete)
    (h : stepComplete P s = .ok (.progress t)) :
    skipByte P (candidateState P s) = .ok t
    ∨ ∃ sq tail u, mustStall (seqOwn sq) (candidateState P s) = false
        ∧ consume P s.rxLen sq tail (candidateState P s) = .ok u ∧ t = seekAgain u := by
  obtain ⟨sq, tail, hg, -⟩ := ringBytes_candidate hi.receive hrx
  obtain ⟨-, -, hclass⟩ := hi.receive.candidate (by rw [hrx]; decide)
  rw [stepComplete_eq (hi.side.areas .scratch).1 (hi.receive.complete_used hrx) (le_maxFrameLen_of_frame hclass) hg] at h
  split at h
  · obtain ⟨u, hu, e⟩ := run_map_eq_ok.1 h
    cases e
    exact .inl hu
  · split at h
    · cases h
    · next hfree =>
      obtain ⟨u, hu, e⟩ := run_map_eq_ok.1 h
      cases e
      exact .inr ⟨sq, tail, u, Bool.eq_false_of_not_eq_true hfree, hu, rfl⟩

theorem stepComplete_progress_stores (hi : ScanInv P s) (hrx : s.rxState = .frameComplete)
    (h : stepComplete P s = .ok (.progress t)) : ScanStores s t := by
  refine (candidateState_stores P s).trans ?_
  rcases stepComplete_progress_cases hi hrx h with hskip | ⟨sq, tail, u, hfree, hu, rfl⟩
  · exact skipByte_stores hskip
  · exact (consume_stores (candidateState_side hi hrx) hfree hu).trans (seekAgain_stores u)

theorem stepComplete_stall_stores (hi : ScanInv P s) (hrx : s.rxState = .frameComplete)
    (h : stepComplete P s = .ok (.stall t)) : ScanStores s t := by
  obtain ⟨sq, tail, hg, -⟩ := ringBytes_candidate hi.receive hrx
  rcases stepComplete_cases hi hrx hg h with ⟨u, -, e⟩ | ⟨-, -, e⟩ | ⟨u, -, e⟩
  · cases e
  · cases e
    exact candidateState_stores P s
  · cases e

theorem scan_stores (hi : Inv P s) (h : scan P s = .ok t) : ScanStores s t :=
  scan_ends (I := fun u => ScanInv P u ∧ ScanStores s u) (Q := ScanStores s)
    (seek := fun _ _ hu hrx h => ⟨stepSeek_scanInv hu.1 hrx h, hu.2.trans (stepSeek_stores h)⟩)
    (complete := fun _ hu hrx hused => ⟨complete_scanInv hu.1 hrx hused, { hu.2 with }⟩)
    (progress := fun _ _ hu hrx h =>
      have hstep := stepComplete_progress hu.1 hrx h
      ⟨⟨hstep.1, hu.2.trans (stepComplete_progress_stores hu.1 hrx h)⟩, hstep.2⟩)
    (empty := fun _ hu _ => hu.2)
    (short := fun _ hu _ _ => hu.2)
    (stall := fun _ _ hu hrx h => hu.2.trans (stepComplete_stall_stores hu.1 hrx h))
    ⟨hi.scanInv, .refl s⟩ h

/-! ## Framing -/

/-- What framing may do to the areas: it writes the frame into the send buffer and frees the waiting payload's bytes
(R86, log 10). -/
structure FrameStores (s t : State) : Prop where
  rb : t.rb = s.rb
  ackBuf : t.ackBuf = s.ackBuf
  slotRx : t.slotRx = s.slotRx
  slotRxLen : t.slotRxLen = s.slotRxLen
  slotTx : ∀ j, s.slotTxLen.toNat ≤ j → memRead t.slotTx j = memRead s.slotTx j
  sendBuf : ∀ j, s.slotTxLen = 0#8 ∨ t.sendLen.toNat ≤ j → memRead t.sendBuf j = memRead s.sendBuf j

theorem frameFromSlot_stores (hs : SideInv P s) (hslot : s.slotTxLen ≠ 0#8) (h : frameFromSlot P s = .ok t) :
    FrameStores s t := by
  obtain ⟨⟨-, hhi, -⟩, rfl⟩ := frameFromSlot_eq_ok.1 h
  refine ⟨rfl, rfl, rfl, rfl, fun j hj => ?_, fun j hj => ?_⟩
  · exact memRead_memWriteBytes_outside (hs.areas .slotTx).1 (.inr (by simpa using hj))
  · have hj : (s.slotTxLen + 3#8).toNat ≤ j := hj.resolve_left hslot
    have := P.max_le
    have hlen : (s.slotTxLen + 3#8).toNat = s.slotTxLen.toNat + 3 := by
      rw [BitVec.toNat_add]
      exact Nat.mod_eq_of_lt (by show s.slotTxLen.toNat + 3 < 256; omega)
    refine memRead_memWriteBytes_outside (hs.areas .sendBuf).1 (.inr ?_)
    rw [withChecksum_length, dataBody_length, slotTxPayload_length]
    omega

theorem retxTimer_stores (P : Params) (s : State) : FrameStores s (retxTimer P s) := by
  rcases retxTimer_cases P s with ⟨-, -, -, -, -, e⟩ | ⟨-, e⟩ <;> rw [e] <;>
    exact ⟨rfl, rfl, rfl, rfl, fun _ _ => rfl, fun _ _ => rfl⟩

theorem frameOrTimer_stores (hs : SideInv P s) (h : frameOrTimer P s = .ok t) : FrameStores s t := by
  unfold frameOrTimer at h
  split at h
  · next hc => exact frameFromSlot_stores hs hc.2 h
  · rw [← Except.ok.inj h]
    exact retxTimer_stores P s

theorem FrameStores.baudApply (h : FrameStores s t) : FrameStores s (baudApply t) := by
  rcases baudApply_cases t with ⟨-, -, e⟩ | ⟨-, e⟩ <;> rw [e] <;> exact { h with }

/-! ## TICK -/

/-- A scan, then a framing: the scan leaves what the framing takes, and the framing leaves what the scan delivered. -/
theorem tickWith_stores {now : Word} (hi : Inv P s) (h : tickWith P now s = .ok t) :
    ∃ u, ScanStores s u ∧ FrameStores u t := by
  obtain ⟨u, hu, h⟩ := run_bind_eq_ok.1 h
  obtain ⟨v, hv, h⟩ := run_bind_eq_ok.1 h
  obtain rfl := Except.ok.inj h
  have hclock : Inv P { s with nowReg := now } := { hi with }
  have hscan := scan_stores hclock hu
  exact ⟨u, { hscan with }, (frameOrTimer_stores (scan_r36 hclock hu).toInv.side hv).baudApply⟩

/-- Settles O33: the scan's stores and the framing's, put together; `scratch` lists nothing past its size, before the TICK
or after it. -/
theorem tickStoresOnlyItsFrames : Obligations.TickStoresOnlyItsFrames := by
  intro now s t hi h
  obtain ⟨u, hscan, hframe⟩ := tickWith_stores hi (runOutcome_eq_next.1 h)
  have ht := exec_inv hi h
  refine ⟨hframe.rb.trans hscan.rb, hframe.ackBuf.trans hscan.ackBuf, fun j hj => ?_, fun j hj => ?_, fun j hj => ?_,
    fun j hj => ?_⟩
  · rw [hframe.slotTx j (hscan.slotTxLen ▸ hj), hscan.slotTx]
  · rw [hframe.slotRx, hscan.slotRx j (hframe.slotRxLen ▸ hj)]
  · rw [hframe.sendBuf j (hscan.slotTxLen ▸ hj), hscan.sendBuf]
  · exact ((ht.side.areas .scratch).memRead_past hj).trans ((hi.side.areas .scratch).memRead_past hj).symm

end Sys2Proof.Machine
end

section
/-! Both encodings (30_encoding.md R54 to R63): what each operand reader and each decoder answers, as an equivalence with
what the encoder writes. Decoding an encoding and encoding what was decoded are its two directions. -/

namespace Sys2Proof

variable {P : Params} {i : Instr} {bytes rest : List Byte}

/-! ## Length classes (R57) -/

/-- Settles O7: each answer of `len_class` comes with its range, and the four ranges are disjoint. -/
theorem lengthClassTable : Obligations.LengthClassTable := by
  intro P len
  have hmin := P.min_pos
  have hle := P.min_le_max
  rcases lenClass_cases P len with ⟨h, e⟩ | ⟨h, hrange⟩ | ⟨h, e⟩ | ⟨h, hrange⟩ <;>
    simp only [h, reduceCtorEq, false_iff, true_iff]
  case inl =>
    have hlen : len.toNat = 0 := congrArg BitVec.toNat e
    omega
  case inr.inr.inl =>
    have hlen : len.toNat = 3 := congrArg BitVec.toNat e
    omega
  all_goals omega

theorem lenClass_eq_idle {len : Byte} : lenClass P len = .idle ↔ len.toNat = 0 := by
  obtain ⟨hidle, -⟩ := lengthClassTable P len
  exact hidle

theorem lenClass_eq_ack {len : Byte} : lenClass P len = .ack ↔ len.toNat = 3 := by
  obtain ⟨-, hack, -⟩ := lengthClassTable P len
  exact hack

theorem lenClass_eq_data {len : Byte} :
    lenClass P len = .data ↔ 3 + P.minMsgLen ≤ len.toNat ∧ len.toNat ≤ P.maxMsgLen + 3 := by
  obtain ⟨-, -, hdata, -⟩ := lengthClassTable P len
  exact hdata

theorem lenClass_zero (P : Params) : lenClass P 0#8 = .idle := lenClass_eq_idle.2 rfl

theorem lenClass_three (P : Params) : lenClass P 3#8 = .ack := lenClass_eq_ack.2 rfl

/-- A BADLEN byte is what the others leave over (R57, R59). -/
theorem wf_wBadlen_iff {len : Byte} : (Instr.wBadlen len).wf P = true ↔ lenClass P len = .badlen := by
  have h0 : len = 0#8 ↔ len.toNat = 0 := by bv_omega
  have h3 : len = 3#8 ↔ len.toNat = 3 := by bv_omega
  have hmin := P.min_pos
  obtain ⟨-, -, -, hbadlen⟩ := lengthClassTable P len
  rw [hbadlen]
  simp only [Instr.wf, ne_eq, h0, h3, Bool.and_eq_true, Bool.not_eq_true', Bool.and_eq_false_iff, decide_eq_true_eq,
    decide_eq_false_iff_not]
  rw [overhead, maxFrameLen_eq]
  omega

/-- The length byte of a frame with `n` payload bytes (R54). -/
theorem frameLength_toNat {n : Nat} (h : n ≤ P.maxMsgLen) : (BitVec.ofNat 8 (n + 3)).toNat = n + 3 := by
  have := P.max_le
  rw [BitVec.toNat_ofNat, Nat.mod_eq_of_lt (by omega)]

theorem lenClass_frameLength {n : Nat} (hlo : P.minMsgLen ≤ n) (hhi : n ≤ P.maxMsgLen) :
    lenClass P (BitVec.ofNat 8 (n + 3)) = .data := by
  rw [lenClass_eq_data, frameLength_toNat hhi]
  omega

/-! ## Operands of a command (R61) -/

theorem decode_map_eq_ok {α β : Type} {x : Except DecodeError α} {f : α → β} {r : β} :
    x.map f = .ok r ↔ ∃ a, x = .ok a ∧ f a = r := by
  cases x <;> simp [Except.map]

theorem decode_bind_eq_ok {α β : Type} {x : Except DecodeError α} {f : α → Except DecodeError β} {r : β} :
    (x >>= f) = .ok r ↔ ∃ a, x = .ok a ∧ f a = .ok r := by
  cases x <;> simp [bind, Except.bind]

theorem takeWord_eq_ok {m : String} {w : Word} :
    takeWord m bytes = .ok (w, rest) ↔ bytes = wordBytes w ++ rest := by
  constructor
  · intro h
    unfold takeWord at h
    split at h
    · next b0 b1 b2 b3 r =>
      obtain ⟨rfl, rfl⟩ := Prod.mk.inj (Except.ok.inj h)
      rw [wordBytes_wordOfBytes]
      rfl
    · cases h
  · rintro rfl
    exact congrArg (fun w => Except.ok (w, rest)) (wordOfBytes_wordBytes w)

@[simp] theorem takeWord_wordBytes (m : String) (w : Word) (rest : List Byte) :
    takeWord m (wordBytes w ++ rest) = .ok (w, rest) :=
  takeWord_eq_ok.2 rfl

theorem takeByte_eq_ok {m : String} {b : Byte} : takeByte m bytes = .ok (b, rest) ↔ bytes = b :: rest := by
  cases bytes <;> simp [takeByte]

theorem takePayload_eq_ok {p : List Byte} :
    takePayload bytes = .ok (p, rest) ↔ p.length ≤ 255 ∧ bytes = BitVec.ofNat 8 p.length :: (p ++ rest) := by
  constructor
  · intro h
    unfold takePayload at h
    split at h
    · next n r =>
      split at h
      · next hn =>
        obtain ⟨rfl, rfl⟩ := Prod.mk.inj (Except.ok.inj h)
        have hlt := n.isLt
        rw [List.length_take_of_le hn, BitVec.ofNat_toNat, BitVec.setWidth_eq, List.take_append_drop]
        exact ⟨by omega, rfl⟩
      · cases h
    · cases h
  · rintro ⟨hp, rfl⟩
    have hn : (BitVec.ofNat 8 p.length).toNat = p.length := by
      rw [BitVec.toNat_ofNat, Nat.mod_eq_of_lt (by omega)]
    rw [takePayload, hn, if_pos (by simp), List.take_left, List.drop_left]

/-! ## Commands (R61, R63) -/

/-- An opcode that is none of the ten assigned ones (R63). -/
theorem decodeCommand_unassigned {op : Byte} (h : op.toNat = 0 ∨ 0x0B ≤ op.toNat) :
    decodeCommand (op :: rest) = .ok (.invalid op, rest) := by
  unfold decodeCommand
  dsimp only
  split
  case h_11 => rfl
  all_goals omega

theorem wf_invalid_iff {op : Byte} : (Instr.invalid op).wf P = true ↔ op.toNat = 0 ∨ 0x0B ≤ op.toNat := by
  have h0 : op = 0x00#8 ↔ op.toNat = 0 := by bv_omega
  simp [Instr.wf, h0, BitVec.le_def]

theorem decodeCommand_encode (hcmd : i.isWire = false) (hwf : i.wf P = true) :
    decodeCommand (encode i ++ rest) = .ok (i, rest) := by
  cases i with
  | reset | txByte | drain | rxByte | readReg => rfl
  | tick w | setBaud w | proposeBaud w => simp [encode, decodeCommand, Except.map]
  | submit p =>
    have hp : p.length ≤ 255 := of_decide_eq_true hwf
    exact decode_map_eq_ok.2 ⟨(p, rest), takePayload_eq_ok.2 ⟨hp, rfl⟩, rfl⟩
  | setDynConfig en min => simp [encode, decodeCommand, takeByte, bind, Except.bind]
  | invalid op => exact decodeCommand_unassigned (wf_invalid_iff.1 hwf)
  | wIdle | wAck | wData | wBadlen => cases hcmd

/-- A byte is the byte its number writes. -/
theorem eq_ofNat_of_toNat {b : Byte} {n : Nat} (h : b.toNat = n) : b = BitVec.ofNat 8 n := by
  rw [← h, BitVec.ofNat_toNat, BitVec.setWidth_eq]

theorem encode_of_decodeCommand (P : Params) (h : decodeCommand bytes = .ok (i, rest)) :
    bytes = encode i ++ rest ∧ i.isWire = false ∧ i.wf P = true := by
  cases bytes with
  | nil => cases h
  | cons op r =>
    simp only [decodeCommand] at h
    split at h
    case h_1 hop | h_4 hop | h_6 hop =>
      cases h
      exact ⟨congrArg (· :: rest) (eq_ofNat_of_toNat hop), rfl, rfl⟩
    case h_2 hop | h_8 hop | h_10 hop =>
      obtain ⟨⟨w, _⟩, hw, e⟩ := decode_map_eq_ok.1 h
      cases e
      rw [takeWord_eq_ok.1 hw, eq_ofNat_of_toNat hop]
      exact ⟨rfl, rfl, rfl⟩
    case h_3 hop | h_7 hop =>
      obtain ⟨⟨b, _⟩, hb, e⟩ := decode_map_eq_ok.1 h
      cases e
      rw [takeByte_eq_ok.1 hb, eq_ofNat_of_toNat hop]
      exact ⟨rfl, rfl, rfl⟩
    case h_5 hop =>
      obtain ⟨⟨p, _⟩, hp, e⟩ := decode_map_eq_ok.1 h
      cases e
      obtain ⟨hlen, hr⟩ := takePayload_eq_ok.1 hp
      rw [hr, eq_ofNat_of_toNat hop]
      exact ⟨rfl, rfl, decide_eq_true hlen⟩
    case h_9 hop =>
      obtain ⟨⟨en, r₁⟩, hen, h⟩ := decode_bind_eq_ok.1 h
      obtain ⟨⟨min, r₂⟩, hmin, e⟩ := decode_bind_eq_ok.1 h
      cases e
      rw [takeByte_eq_ok.1 hen, show r₁ = _ from takeWord_eq_ok.1 hmin, eq_ofNat_of_toNat hop]
      exact ⟨rfl, rfl, rfl⟩
    case h_11 =>
      cases h
      have hop : op.toNat = 0 ∨ 0x0B ≤ op.toNat := by simp only [imp_false] at *; omega
      exact ⟨rfl, rfl, wf_invalid_iff.2 hop⟩

/-- Settles O1: each operand is read back from the bytes the encoder wrote for it. -/
theorem commandDecodeEncode : Obligations.CommandDecodeEncode := fun _ _ _ hcmd hwf => decodeCommand_encode hcmd hwf

/-- Settles O3: each operand read is written again as the bytes it was read from. -/
theorem commandEncodeDecode : Obligations.CommandEncodeDecode := fun P _ _ _ h => encode_of_decodeCommand P h

/-! ## The wire (R54 to R57, R60) -/

theorem wf_wData_iff {own ackn : Nibble} {p : List Byte} {chk : Byte} :
    (Instr.wData own ackn p chk).wf P = true ↔ P.minMsgLen ≤ p.length ∧ p.length ≤ P.maxMsgLen := by
  simp [Instr.wf]

theorem decodeWire_encode (hwire : i.isWire = true) (hwf : i.wf P = true) :
    decodeWire P (encode i ++ rest) = .ok (i, rest) := by
  cases i with
  | wIdle => simp [encode, decodeWire, lenClass_zero]
  | wBadlen len => simp [encode, decodeWire, wf_wBadlen_iff.1 hwf]
  | wAck own ackn chk => simp [encode, decodeWire, lenClass_three]
  | wData own ackn p chk =>
    obtain ⟨hlo, hhi⟩ := wf_wData_iff.1 hwf
    have hclass : lenClass P (BitVec.ofNat 8 (p.length + 3)) = .data := lenClass_frameLength hlo hhi
    have hn : (BitVec.ofNat 8 (p.length + 3)).toNat = p.length + 3 := frameLength_toNat hhi
    simp [encode, decodeWire, overhead, hclass, hn, -BitVec.toNat_ofNat]
  | _ => cases hwire

theorem encode_of_decodeWire (h : decodeWire P bytes = .ok (i, rest)) :
    bytes = encode i ++ rest ∧ i.isWire = true ∧ i.wf P = true := by
  cases bytes with
  | nil => cases h
  | cons len r =>
    simp only [decodeWire] at h
    split at h
    case h_1 hclass =>
      cases h
      have hlen : len.toNat = 0 := lenClass_eq_idle.1 hclass
      exact ⟨congrArg (· :: rest) (eq_ofNat_of_toNat hlen), rfl, rfl⟩
    case h_2 hclass =>
      cases h
      exact ⟨rfl, rfl, wf_wBadlen_iff.2 hclass⟩
    case h_3 hclass =>
      have hlen : len.toNat = 3 := lenClass_eq_ack.1 hclass
      split at h
      · cases h
        rw [encode, seqByte_eta, eq_ofNat_of_toNat hlen]
        exact ⟨rfl, rfl, rfl⟩
      · cases h
    case h_4 hclass =>
      obtain ⟨hlo, hhi⟩ := lenClass_eq_data.1 hclass
      split at h
      · next sq r =>
        split at h
        · next chk r' hdrop =>
          cases h
          have hlong : len.toNat - 3 + 1 ≤ r.length := by
            have := congrArg List.length hdrop
            rw [List.length_drop, List.length_cons, overhead] at this
            omega
          have htake : (r.take (len.toNat - overhead)).length = len.toNat - 3 :=
            List.length_take_of_le (by rw [overhead]; omega)
          have hbyte : BitVec.ofNat 8 ((r.take (len.toNat - overhead)).length + overhead) = len := by
            rw [htake, overhead, Nat.sub_add_cancel (by omega), BitVec.ofNat_toNat, BitVec.setWidth_eq]
          have hr : r = r.take (len.toNat - overhead) ++ chk :: rest := by rw [← hdrop, List.take_append_drop]
          refine ⟨?_, rfl, wf_wData_iff.2 (by rw [htake]; omega)⟩
          rw [encode, hbyte, seqByte_eta]
          simpa using hr
        · cases h
      · cases h

/-- Settles O2: the length byte gives the unit's class back, and the class how its bytes are cut. -/
theorem wireDecodeEncode : Obligations.WireDecodeEncode := fun _ _ _ hwire hwf => decodeWire_encode hwire hwf

/-- Settles O4: the class says which unit was read, and its fields are written again as the bytes they were cut from. -/
theorem wireEncodeDecode : Obligations.WireEncodeDecode := fun _ _ _ _ h => encode_of_decodeWire h

/-- Settles O5: each word is the encoding of what it stands for, with the rest of the stream behind it. -/
theorem writtenWordsDecode : Obligations.WrittenWordsDecode :=
  ⟨decodeCommand_encode (P := testParams) (i := .tick 1#32) rfl rfl,
    decodeCommand_encode (P := testParams) (i := .setBaud 3000000#32) rfl rfl,
    decodeCommand_encode (P := testParams) (i := .submit [0x01, 0x02]) rfl rfl,
    decodeWire_encode (i := .wData 1#4 0#4 [0xAA] 0x35) rfl rfl,
    decodeWire_encode (i := .wAck 2#4 1#4 0x4E) rfl rfl⟩

end Sys2Proof
end

section
/-! The receipt of one wire unit by a block at rest (30_encoding.md R54 to R59; 41_receive_resync.md R72 to R76; log 4):
its bytes fill the empty ring, one candidate is judged, and the scan ends with the ring empty again. -/

namespace Sys2Proof.Machine

variable {P : Params} {s t : State} {f : List Byte}

/-! ## At rest -/

theorem RingIdle.seeking (h : RingIdle s) : s.rxState = .seeking := h.1

theorem RingIdle.used (h : RingIdle s) : s.rbUsed = 0 := h.2.2

/-- A ring at rest has room for all it can hold. -/
theorem RingIdle.room (h : RingIdle s) (hfit : f.length ≤ P.rbSize) : s.rbUsed + f.length ≤ P.rbSize := by
  rw [h.used, Nat.zero_add]; exact hfit

/-! ## The bytes arrive -/

/-- Bytes that find room are stored behind the unread ones, and nothing else changes (R41). -/
theorem rbPushBytes_room (h : s.rbUsed + f.length ≤ P.rbSize) :
    rbPushBytes P f s = { s with rb := (rbPushBytes P f s).rb, rbUsed := s.rbUsed + f.length } := by
  induction f generalizing s with
  | nil => rfl
  | cons b f ih =>
    rw [List.length_cons] at h
    have hpush : rbPush P b s = { s with rb := (rbPush P b s).rb, rbUsed := s.rbUsed + 1 } := by
      rw [rbPush_room b (by omega)]
    have hused : (rbPush P b s).rbUsed = s.rbUsed + 1 := by rw [hpush]
    have htail := ih (s := rbPush P b s) (by omega)
    show rbPushBytes P f (rbPush P b s) = { s with rb := (rbPushBytes P f (rbPush P b s)).rb, rbUsed := _ }
    generalize (rbPushBytes P f (rbPush P b s)).rb = m at htail ⊢
    rw [htail, hused, List.length_cons, Nat.add_assoc, Nat.add_comm 1, hpush]

/-- Bytes that find room leave every place of the ring but those behind the unread ones (R41). -/
theorem memRead_rbPushBytes_other {j : Nat} (h : s.rbUsed + f.length ≤ P.rbSize)
    (hj : ∀ k, k < f.length → j ≠ rbOffset P s (s.rbUsed + k)) :
    memRead (rbPushBytes P f s).rb j = memRead s.rb j := by
  induction f generalizing s with
  | nil => rfl
  | cons b f ih =>
    rw [List.length_cons] at h hj
    have hpush := rbPush_room (P := P) (s := s) b (by omega)
    calc memRead (rbPushBytes P f (rbPush P b s)).rb j
        = memRead (rbPush P b s).rb j := by
          refine ih (by rw [hpush]; show s.rbUsed + 1 + _ ≤ _; omega) fun k hk => ?_
          have := hj (k + 1) (by omega)
          rw [hpush]
          simpa only [rbOffset, Nat.add_assoc, Nat.add_comm 1] using this
      _ = memRead s.rb j := by
          rw [hpush]
          exact memRead_memWrite_other _ (hj 0 (by omega)) b

/-- At rest the unread bytes are then exactly those that arrived (R42). -/
theorem ringBytes_rbPushBytes (hi : Inv P s) (hidle : RingIdle s) (hfit : f.length ≤ P.rbSize) :
    ringBytes P f.length (rbPushBytes P f s) = f := by
  have hunread : unread P s = [] := by rw [unread, hidle.used]; rfl
  have h := unread_rbPushBytes f hi
  rw [hunread, hidle.used, Nat.zero_add, Nat.sub_eq_zero_of_le hfit, unread, rbUsed_rbPushBytes f hi, hidle.used,
    Nat.zero_add, Nat.min_eq_left hfit] at h
  exact h

/-- At rest the byte at the frame-start position is then the first that arrived. -/
theorem memRead_rbPushBytes_first {b : Byte} (hi : Inv P s) (hidle : RingIdle s) (hfit : (b :: f).length ≤ P.rbSize) :
    memRead (rbPushBytes P (b :: f) s).rb (rbOffset P (rbPushBytes P (b :: f) s) 0) = b := by
  have h := ringBytes_rbPushBytes hi hidle hfit
  rw [ringBytes, List.length_cons, List.range_succ_eq_map] at h
  exact (List.cons.inj h).1

theorem rbUsed_rbPushBytes_idle (hi : Inv P s) (hidle : RingIdle s) (hfit : f.length ≤ P.rbSize) :
    (rbPushBytes P f s).rbUsed = f.length := by
  rw [rbUsed_rbPushBytes f hi, hidle.used, Nat.zero_add, Nat.min_eq_left hfit]

/-! ## SCAN's passes -/

theorem scanLoop_empty (fuel : Nat) (hrx : s.rxState = .seeking) (hused : s.rbUsed = 0) :
    scanLoop P fuel s = .ok s := by
  cases fuel <;> simp [scanLoop, hrx, hused]

/-- A scan that empties the ring with its first step (R73). -/
theorem scan_of_stepSeek (hrx : s.rxState = .seeking) (hne : s.rbUsed ≠ 0) (h : stepSeek P s = .ok t)
    (hrx' : t.rxState = .seeking) (hused : t.rbUsed = 0) : scan P s = .ok t := by
  rw [scan, scanFuel, scanLoop]
  simp only [hrx, hne, if_false, h, run_ok_bind]
  exact scanLoop_empty _ hrx' hused

theorem stepSeek_of_frame {len : Byte} (hlen : memRead s.rb (rbOffset P s 0) = len)
    (hclass : lenClass P len = .ack ∨ lenClass P len = .data) (hne : s.rbUsed ≠ 0) :
    stepSeek P s = .ok { s with rxLen := len, rxState := .accumulating } := by
  obtain ⟨t, ht⟩ := stepSeek_answers P hne
  obtain ⟨-, ⟨h, -⟩ | ⟨h, -⟩ | ⟨-, rfl⟩⟩ := stepSeek_cases ht
  · rw [hlen] at h; simp [h] at hclass
  · rw [hlen] at h; simp [h] at hclass
  · rw [ht, hlen]

theorem stepSeek_of_idle (hclass : lenClass P (memRead s.rb (rbOffset P s 0)) = .idle) (hne : s.rbUsed ≠ 0) :
    stepSeek P s = .ok
      { s with rbHead := (s.rbHead + 1) % P.rbSize, rbUsed := s.rbUsed - 1, zeroRun := satInc s.zeroRun } := by
  obtain ⟨t, ht⟩ := stepSeek_answers P hne
  obtain ⟨-, ⟨-, rfl⟩ | ⟨h, -⟩ | ⟨h, -⟩⟩ := stepSeek_cases ht
  · exact ht
  · simp [hclass] at h
  · simp [hclass] at h

theorem stepSeek_of_badlen (hclass : lenClass P (memRead s.rb (rbOffset P s 0)) = .badlen) (hne : s.rbUsed ≠ 0) :
    stepSeek P s = .ok
      { s with
        rbHead := (s.rbHead + 1) % P.rbSize
        rbUsed := s.rbUsed - 1
        errFrame := satInc s.errFrame
        events := s.events ++ [.frameErrorBadlen] } := by
  obtain ⟨t, ht⟩ := stepSeek_answers P hne
  obtain ⟨-, ⟨h, -⟩ | ⟨-, rfl⟩ | ⟨h, -⟩⟩ := stepSeek_cases ht
  · simp [hclass] at h
  · exact ht
  · simp [hclass] at h

/-- The scanner with the candidate at the frame-start position complete (R73, R74). -/
def completeCandidate (len : Byte) (s : State) : State := { s with rxLen := len, rxState := .frameComplete }

/-- A scan whose first candidate is complete and is the last thing in the ring (R73). -/
theorem scan_of_stepComplete {len : Byte} (hrx : s.rxState = .seeking) (hne : s.rbUsed ≠ 0)
    (hlen : memRead s.rb (rbOffset P s 0) = len) (hclass : lenClass P len = .ack ∨ lenClass P len = .data)
    (hused : len.toNat ≤ s.rbUsed) (h : stepComplete P (completeCandidate len s) = .ok (.progress t))
    (hrx' : t.rxState = .seeking) (hused' : t.rbUsed = 0) : scan P s = .ok t := by
  rw [completeCandidate] at h
  rw [scan, scanFuel, scanLoop]
  simp only [hrx, hne, if_false, stepSeek_of_frame hlen hclass hne, run_ok_bind]
  rw [scanLoop]
  simp only [Nat.not_lt.2 hused, if_false]
  rw [scanLoop]
  simp only [h, run_ok_bind]
  exact scanLoop_empty _ hrx' hused'

/-! ## One byte at rest -/

/-- One byte that `step_seek` consumes, or drops, leaves the ring empty again (R73, R74). -/
theorem receiveUnit_byte {b : Byte} (hidle : RingIdle s) (h : stepSeek P (rbPushBytes P [b] s) = .ok t)
    (hrx : t.rxState = s.rxState) (hused : t.rbUsed = s.rbUsed) : receiveUnit P [b] s = .ok t := by
  have hroom : rbPushBytes P [b] s = { s with rb := (rbPushBytes P [b] s).rb, rbUsed := s.rbUsed + 1 } :=
    rbPushBytes_room (hidle.room (rbSize_pos P))
  exact scan_of_stepSeek (by rw [hroom]; exact hidle.seeking) (by rw [hroom]; exact Nat.succ_ne_zero _) h
    (hrx.trans hidle.seeking) (hused.trans hidle.used)

/-- At rest one byte is stored at the frame-start position, and nowhere else (R41). -/
theorem rbPushBytes_byte (b : Byte) (hi : Inv P s) (hidle : RingIdle s) :
    rbPushBytes P [b] s = { s with rb := (rbPushBytes P [b] s).rb, rbUsed := s.rbUsed + 1 }
    ∧ memRead (rbPushBytes P [b] s).rb (rbOffset P (rbPushBytes P [b] s) 0) = b
    ∧ ∀ j, j ≠ rbOffset P s 0 → memRead (rbPushBytes P [b] s).rb j = memRead s.rb j := by
  have hfit : s.rbUsed + [b].length ≤ P.rbSize := hidle.room (rbSize_pos P)
  refine ⟨rbPushBytes_room hfit, memRead_rbPushBytes_first hi hidle (rbSize_pos P), fun j hj => ?_⟩
  refine memRead_rbPushBytes_other hfit fun k hk => ?_
  rw [hidle.used, Nat.zero_add, Nat.lt_one_iff.1 hk]
  exact hj

/-- Settles O38: the one byte that came is class IDLE, and `step_seek` consumes it. -/
theorem idleByteIsCounted : Obligations.IdleByteIsCounted := by
  intro s hi hidle
  obtain ⟨hroom, hfirst, hother⟩ := rbPushBytes_byte 0x00#8 hi hidle
  have hstep := stepSeek_of_idle (P := Config.params) (s := rbPushBytes Config.params [0x00#8] s)
    (by rw [hfirst]; exact lenClass_zero _) (by rw [hroom]; exact Nat.succ_ne_zero _)
  refine ⟨_, runOutcome_eq_next.2 (receiveUnit_byte hidle hstep ?_ ?_), ?_, hother⟩ <;>
    rw [hroom] <;> rfl

/-- Settles O39: the one byte that came is class BADLEN, and `step_seek` drops it. -/
theorem badLengthIsCounted : Obligations.BadLengthIsCounted := by
  intro len s hi hidle hwf
  obtain ⟨hroom, hfirst, hother⟩ := rbPushBytes_byte len hi hidle
  have hstep := stepSeek_of_badlen (P := Config.params) (s := rbPushBytes Config.params [len] s)
    (by rw [hfirst]; exact wf_wBadlen_iff.1 hwf) (by rw [hroom]; exact Nat.succ_ne_zero _)
  refine ⟨_, runOutcome_eq_next.2 (receiveUnit_byte hidle hstep ?_ ?_), ?_, hother⟩ <;>
    rw [hroom] <;> rfl

/-! ## One frame at rest -/

/-- What an ACK nibble does reads and writes nothing of the receive side (R80, R81). -/
theorem inboundAck_receiveSide (a : Nibble) (s : State) (rb scratch : Memory) (rbHead rbUsed : Nat) (rxState : RxState)
    (rxLen : Byte) (zeroRun : Word) :
    inboundAck a
        { s with
          rb := rb, scratch := scratch, rbHead := rbHead, rbUsed := rbUsed, rxState := rxState, rxLen := rxLen
          zeroRun := zeroRun } =
      { inboundAck a s with
        rb := rb, scratch := scratch, rbHead := rbHead, rbUsed := rbUsed, rxState := rxState, rxLen := rxLen
        zeroRun := zeroRun } := by
  simp only [inboundAck, release]
  split_ifs <;> rfl

/-- The state in which `step_complete` judges the frame `f` with the length byte `len`, received at rest (R75). -/
def judgedFrame (P : Params) (len : Byte) (f : List Byte) (s : State) : State :=
  candidateState P (completeCandidate len (rbPushBytes P f s))

/-- The state after a valid frame `f` with the ACK nibble `a`, received at rest: it has gone through the ring and
`scratch`, the zero run has ended, and its ACK nibble is honoured (R76). -/
def frameTaken (P : Params) (f : List Byte) (a : Nibble) (s : State) : State :=
  { inboundAck a s with
    rb := (rbPushBytes P f s).rb
    scratch := memWriteBytes s.scratch 0 f
    rbHead := (s.rbHead + f.length) % P.rbSize
    zeroRun := 0#32 }

theorem judgedFrame_eq {len : Byte} (hi : Inv P s) (hidle : RingIdle s) (hlen : len.toNat = f.length)
    (hfit : f.length ≤ P.rbSize) :
    judgedFrame P len f s =
      { s with
        rb := (rbPushBytes P f s).rb
        rbUsed := f.length
        rxState := .frameComplete
        rxLen := len
        scratch := memWriteBytes s.scratch 0 f } := by
  have hring : ringBytes P len.toNat (completeCandidate len (rbPushBytes P f s)) = f := by
    rw [hlen]; exact ringBytes_rbPushBytes hi hidle hfit
  have hroom := rbPushBytes_room (P := P) (s := s) (f := f) (hidle.room hfit)
  rw [hidle.used, Nat.zero_add] at hroom
  rw [judgedFrame, candidateState, show (completeCandidate len (rbPushBytes P f s)).rxLen = len from rfl, hring,
    completeCandidate]
  generalize (rbPushBytes P f s).rb = m at hroom ⊢
  rw [hroom]

theorem inboundAck_ringIdle (a : Nibble) (h : RingIdle s) : RingIdle (inboundAck a s) := by
  rw [inboundAck_frame]; exact h

/-- Once the frame is taken the receive side is at rest again (R75). -/
theorem seekAgain_afterAck {len sq : Byte} (hi : Inv P s) (hidle : RingIdle s) (hlen : len.toNat = f.length)
    (hfit : f.length ≤ P.rbSize) :
    seekAgain (afterAck P len sq (judgedFrame P len f s)) = frameTaken P f (seqAckn sq) s := by
  have hack := inboundAck_receiveSide (seqAckn sq) s (rbPushBytes P f s).rb (memWriteBytes s.scratch 0 f)
    ((s.rbHead + f.length) % P.rbSize) 0 .frameComplete len 0#32
  obtain ⟨hrx, hrxLen, hused⟩ := inboundAck_ringIdle (seqAckn sq) hidle
  rw [judgedFrame_eq hi hidle hlen hfit, afterAck, hlen, Nat.sub_self]
  refine (congrArg seekAgain hack).trans ?_
  rw [seekAgain, frameTaken, hrx, hrxLen, hused]

theorem withChecksum_valid (P : Params) (body : List Byte) :
    (withChecksum P body).getLast? = some (P.cs (withChecksum P body).dropLast) := by
  simp [withChecksum]

/-- A frame with the checksum of its bytes, and room for what it delivers, is consumed (R75, R76). -/
theorem stepComplete_of_consume {len sq : Byte} {p : List Byte} (hi : Inv P s) (hidle : RingIdle s)
    (hf : f = withChecksum P (len :: sq :: p)) (hlen : len.toNat = f.length) (hmax : len.toNat ≤ P.maxFrameLen)
    (hfree : overhead < len.toNat → seqOwn sq ≠ 0#4 → seqOwn sq ≠ s.seqLastSeen → s.slotRxLen = 0#8)
    (h : consume P len sq (p ++ [P.cs (len :: sq :: p)]) (judgedFrame P len f s) = .ok t) :
    stepComplete P (completeCandidate len (rbPushBytes P f s)) = .ok (.progress (seekAgain t)) := by
  have hfit : f.length ≤ P.rbSize := hlen ▸ hmax.trans (maxFrameLen_le_rbSize P)
  have hused : len.toNat ≤ (rbPushBytes P f s).rbUsed := by rw [rbUsed_rbPushBytes_idle hi hidle hfit, hlen]
  have hring : ringBytes P len.toNat (rbPushBytes P f s) = len :: sq :: (p ++ [P.cs (len :: sq :: p)]) := by
    rw [hlen, ringBytes_rbPushBytes hi hidle hfit, hf]; rfl
  have hvalid : (len :: sq :: (p ++ [P.cs (len :: sq :: p)])).getLast? =
      some (P.cs (len :: sq :: (p ++ [P.cs (len :: sq :: p)])).dropLast) := withChecksum_valid P (len :: sq :: p)
  have hgo : ¬ mustStall (seqOwn sq) (judgedFrame P len f s) = true := fun hstall => by
    rw [judgedFrame_eq hi hidle hlen hfit] at hstall
    obtain ⟨hlong, hne, hnew, hfull⟩ := mustStall_iff.1 hstall
    exact hfull (hfree hlong hne hnew)
  have hwf : (rbPushBytes P f s).scratch.wf := (rbPushBytes_inv f hi).mem_wf .scratch
  rw [stepComplete_eq (s := completeCandidate len (rbPushBytes P f s)) hwf hused hmax hring,
    if_neg (not_not.2 hvalid)]
  exact (if_neg hgo).trans (congrArg (Except.map _) h)

/-- A frame received at rest, with the checksum of its bytes and room for what it delivers, is consumed, and the scan
ends with it (R73, R75, R76). -/
theorem receiveUnit_of_consume {len sq : Byte} {p : List Byte} (hi : Inv P s) (hidle : RingIdle s)
    (hclass : lenClass P len = .ack ∨ lenClass P len = .data) (hf : f = withChecksum P (len :: sq :: p))
    (hlen : len.toNat = f.length)
    (hfree : overhead < len.toNat → seqOwn sq ≠ 0#4 → seqOwn sq ≠ s.seqLastSeen → s.slotRxLen = 0#8)
    (h : consume P len sq (p ++ [P.cs (len :: sq :: p)]) (judgedFrame P len f s) = .ok t) :
    receiveUnit P f s = .ok (seekAgain t) := by
  have hmax : len.toNat ≤ P.maxFrameLen := le_maxFrameLen_of_frame hclass
  have hfit : f.length ≤ P.rbSize := hlen ▸ hmax.trans (maxFrameLen_le_rbSize P)
  have hlen3 := three_le_of_frame hclass
  have hroom := rbPushBytes_room (P := P) (s := s) (f := f) (hidle.room hfit)
  have hused := rbUsed_rbPushBytes_idle hi hidle hfit
  have hfirst : memRead (rbPushBytes P f s).rb (rbOffset P (rbPushBytes P f s) 0) = len := by
    subst hf; exact memRead_rbPushBytes_first hi hidle hfit
  refine scan_of_stepComplete (by rw [hroom]; exact hidle.seeking) (by omega) hfirst hclass (by omega)
    (stepComplete_of_consume hi hidle hf hlen hmax hfree h) rfl ?_
  obtain ⟨-, hrest, -⟩ := consume_ring h
  rw [judgedFrame_eq hi hidle hlen hfit] at hrest
  show t.rbUsed = 0
  rw [hrest]
  show f.length - len.toNat = 0
  omega

/-! ## What the two kinds of frame do -/

/-- An ACK frame received at rest is taken off the ring and its ACK nibble honoured, nothing else (R55, R76). -/
theorem receiveUnit_ack (own ackn : Nibble) (hi : Inv P s) (hidle : RingIdle s) :
    receiveUnit P (withChecksum P [0x03#8, seqByte own ackn]) s =
      .ok (frameTaken P (withChecksum P [0x03#8, seqByte own ackn]) ackn s) := by
  have hfit : (withChecksum P [0x03#8, seqByte own ackn]).length ≤ P.rbSize := (Nat.le_succ 3).trans (four_le_rbSize P)
  have hused : (judgedFrame P 0x03#8 (withChecksum P [0x03#8, seqByte own ackn]) s).rbUsed = 3 := by
    rw [judgedFrame_eq hi hidle rfl hfit]; rfl
  have hshort : ¬ overhead < (0x03#8).toNat := by decide
  rw [receiveUnit_of_consume hi hidle (.inl (lenClass_three P)) rfl rfl (fun hlong => absurd hlong hshort)
    (consume_eq_ok.2 ⟨hused.ge, by rw [if_neg hshort]⟩), seekAgain_afterAck hi hidle rfl hfit, seqAckn_seqByte]

theorem inboundData_reserved (p : List Byte) (s : State) :
    inboundData P 0#4 p s = .ok { s with errFrame := satInc s.errFrame, events := s.events ++ [.frameErrorSeq0] } := rfl

theorem inboundData_new {own : Nibble} {p : List Byte} (hne : own ≠ 0#4) (hnew : own ≠ s.seqLastSeen)
    (hlen : p.length ≤ P.maxMsgLen) :
    inboundData P own p s = .ok
      { s with
        slotRx := memWriteBytes s.slotRx 0 p
        slotRxLen := BitVec.ofNat 8 p.length
        seqLastSeen := own
        ackOwed := true
        msgFromBricklet := satInc s.msgFromBricklet } := by
  rw [inboundData, if_neg hne, if_neg hnew]
  exact deliver_eq_ok.2 ⟨hlen, rfl⟩

theorem inboundData_seekAgain (own : Nibble) (p : List Byte) (s : State) :
    inboundData P own p (seekAgain s) = (inboundData P own p s).map seekAgain := by
  by_cases h0 : own = 0#4
  · rw [h0]; rfl
  rw [inboundData, inboundData, if_neg h0, if_neg h0, seekAgain_seqLastSeen]
  by_cases hd : own = s.seqLastSeen
  · rw [if_pos hd, if_pos hd]; rfl
  rw [if_neg hd, if_neg hd, deliver, deliver, store, store]
  split_ifs <;> rfl

/-- A data frame received at rest is taken off the ring, its ACK nibble honoured, and then its payload is dealt with
(R54, R76, R82); a new payload must find the mailbox empty (R75). -/
theorem receiveUnit_data {own ackn : Nibble} {p : List Byte} (hi : Inv P s) (hidle : RingIdle s)
    (hlo : P.minMsgLen ≤ p.length) (hhi : p.length ≤ P.maxMsgLen)
    (hfree : own ≠ 0#4 → own ≠ s.seqLastSeen → s.slotRxLen = 0#8)
    (h : inboundData P own p (frameTaken P (withChecksum P (dataBody p own ackn)) ackn s) = .ok t) :
    receiveUnit P (withChecksum P (dataBody p own ackn)) s = .ok t := by
  have hlen : (BitVec.ofNat 8 (p.length + 3)).toNat = (withChecksum P (dataBody p own ackn)).length := by
    rw [frameLength_toNat hhi]; simp
  have hlong : overhead < (BitVec.ofNat 8 (p.length + 3)).toNat := by
    have := P.min_pos
    rw [frameLength_toNat hhi, overhead]
    omega
  have hfit : (withChecksum P (dataBody p own ackn)).length ≤ P.rbSize := by
    have := P.frame_fits
    simp only [withChecksum_length, dataBody_length]
    omega
  have hused : (judgedFrame P (BitVec.ofNat 8 (p.length + 3)) (withChecksum P (dataBody p own ackn)) s).rbUsed
      = (BitVec.ofNat 8 (p.length + 3)).toNat := by
    rw [judgedFrame_eq hi hidle hlen hfit, hlen]
  have hack := seekAgain_afterAck (sq := seqByte own ackn) hi hidle hlen hfit
  rw [seqAckn_seqByte] at hack
  rw [← hack, inboundData_seekAgain] at h
  obtain ⟨v, hv, rfl⟩ := run_map_eq_ok.1 h
  refine receiveUnit_of_consume hi hidle (.inr (lenClass_frameLength hlo hhi)) rfl hlen
    (fun _ => by rw [seqOwn_seqByte]; exact hfree) (consume_eq_ok.2 ⟨hused.ge, ?_⟩)
  rw [if_pos hlong, List.dropLast_concat, seqOwn_seqByte]
  exact hv

/-! ## What a frame taken leaves -/

@[simp] theorem frameTaken_slotRx (f : List Byte) (a : Nibble) (s : State) :
    (frameTaken P f a s).slotRx = s.slotRx := by
  rw [frameTaken, inboundAck_frame]

@[simp] theorem frameTaken_seqLastSeen (f : List Byte) (a : Nibble) (s : State) :
    (frameTaken P f a s).seqLastSeen = s.seqLastSeen := by
  rw [frameTaken, inboundAck_frame]

@[simp] theorem frameTaken_errFrame (f : List Byte) (a : Nibble) (s : State) :
    (frameTaken P f a s).errFrame = s.errFrame := by
  rw [frameTaken, inboundAck_frame]

@[simp] theorem frameTaken_events (f : List Byte) (a : Nibble) (s : State) :
    (frameTaken P f a s).events = s.events := by
  rw [frameTaken, inboundAck_frame]

@[simp] theorem frameTaken_msgFromBricklet (f : List Byte) (a : Nibble) (s : State) :
    (frameTaken P f a s).msgFromBricklet = s.msgFromBricklet := by
  rw [frameTaken, inboundAck_frame]

/-- The ring outside the places the frame went through (R41). -/
theorem frameTaken_rb_other {a : Nibble} {n j : Nat} (hidle : RingIdle s) (hlen : f.length = n) (hfit : n ≤ P.rbSize)
    (hj : ∀ k, k < n → j ≠ rbOffset P s k) : memRead (frameTaken P f a s).rb j = memRead s.rb j := by
  subst hlen
  refine memRead_rbPushBytes_other (hidle.room hfit) fun k hk => ?_
  rw [hidle.used, Nat.zero_add]
  exact hj k hk

/-- `scratch` past the frame's bytes (R75). -/
theorem frameTaken_scratch_past {a : Nibble} {n j : Nat} (hi : Inv P s) (hlen : f.length = n) (hj : n ≤ j) :
    memRead (frameTaken P f a s).scratch j = memRead s.scratch j :=
  memRead_memWriteBytes_outside (hi.mem_wf .scratch) (.inr (by omega))

/-! ## The obligations on a valid frame -/

/-- Settles O40: the ACK frame is taken off the ring, and `inbound_ack` is R80's two tests. -/
theorem ackFrameIsHonoured : Obligations.AckFrameIsHonoured := by
  intro own ackn s hi hidle
  have hfit : 3 ≤ Config.params.rbSize := (Nat.le_succ 3).trans (four_le_rbSize _)
  exact ⟨_, runOutcome_eq_next.2 (receiveUnit_ack own ackn hi hidle), rfl,
    fun j hj => frameTaken_rb_other hidle rfl hfit hj, fun j hj => frameTaken_scratch_past hi rfl hj⟩

/-- Settles O44: the frame is taken off the ring, and its number 0 delivers nothing and counts. -/
theorem reservedNumberIsCounted : Obligations.ReservedNumberIsCounted := by
  intro ackn p s hi hidle hlo hhi
  have hdata := receiveUnit_data hi hidle hlo hhi (fun h => absurd rfl h) (inboundData_reserved (P := Config.params) p
    (frameTaken Config.params (withChecksum Config.params (dataBody p 0#4 ackn)) ackn s))
  refine ⟨_, runOutcome_eq_next.2 hdata, ?_⟩
  rw [frameTaken_errFrame, frameTaken_events, frameTaken, withChecksum_length, dataBody_length]

/-- Settles O42: the frame is taken off the ring, and its payload goes into the empty mailbox. -/
theorem newDataIsDelivered : Obligations.NewDataIsDelivered := by
  intro own ackn p s hi hidle hlo hhi hne hnew hempty
  have hwf : s.slotRx.wf := hi.mem_wf .slotRx
  have hlen : (withChecksum Config.params (dataBody p own ackn)).length = p.length + 3 := by simp
  have hfit : p.length + 3 ≤ Config.params.rbSize := by
    have := Config.params.frame_fits
    omega
  have hdata := receiveUnit_data (ackn := ackn) hi hidle hlo hhi (fun _ _ => hempty)
    (inboundData_new hne (by rwa [frameTaken_seqLastSeen]) hhi)
  refine ⟨_, runOutcome_eq_next.2 hdata, ?_, lengthByte_toNat hhi, ?_, ?_, ?_, ?_⟩
  · rw [frameTaken_msgFromBricklet, frameTaken, withChecksum_length, dataBody_length]
  · rw [frameTaken_slotRx]
    exact memReadBytes_memWriteBytes hwf 0 p
  · intro j hj
    rw [frameTaken_slotRx]
    exact memRead_memWriteBytes_outside hwf (.inr (by omega))
  · exact fun j hj => frameTaken_rb_other (a := ackn) hidle hlen hfit hj
  · exact fun j hj => frameTaken_scratch_past (a := ackn) hi hlen hj

end Sys2Proof.Machine
end

section
/-! What `exec` makes of an unassigned opcode (R63), and how a wire unit reaches a run through RX_BYTE and TICK (R64,
R72, R102; log 4). -/

namespace Sys2Proof.Machine

variable {P : Params}

/-- Settles O36: the decoder's last case, and the response INVALID. -/
theorem unassignedOpcode : Obligations.UnassignedOpcode :=
  fun _ hop => ⟨fun _ => decodeCommand_unassigned hop, fun _ => rfl⟩

theorem rbPush_nowReg (b : Byte) (now : Word) (s : State) :
    rbPush P b { s with nowReg := now } = { rbPush P b s with nowReg := now } := by
  simp only [rbPush, rbMakeRoom]
  split_ifs <;> rfl

/-- The strobes do not read the clock (R25, R72). -/
theorem rbPushBytes_nowReg (bytes : List Byte) (now : Word) (s : State) :
    rbPushBytes P bytes { s with nowReg := now } = { rbPushBytes P bytes s with nowReg := now } := by
  induction bytes generalizing s with
  | nil => rfl
  | cons b bytes ih =>
    show rbPushBytes P bytes (rbPush P b { s with nowReg := now }) = _
    rw [rbPush_nowReg]
    exact ih (rbPush P b s)

theorem execAll_append_asmRx (bytes : List Byte) (is : List Instr) (s : State) :
    execAll (asmRx bytes ++ is) s = execAll is (rbPushBytes Config.params bytes s) := by
  induction bytes generalizing s with
  | nil => rfl
  | cons b bytes ih => exact ih (rbPush Config.params b s)

/-- A wire unit's meaning is its receipt (log 4). -/
theorem exec_wire {u : Instr} (hwire : u.isWire = true) (s : State) :
    exec u s = runOutcome (receiveUnit Config.params (encode u) s) := by
  cases u with
  | wIdle | wAck | wData | wBadlen => rfl
  | _ => cases hwire

/-- A TICK is a scan with its clock latched, then the rest (R102). -/
theorem tickWith_eq (P : Params) (now : Word) (s : State) :
    tickWith P now s = scan P { s with nowReg := now } >>= fun t => (frameOrTimer P t).map baudApply := rfl

theorem execAll_singleton (i : Instr) (s : State) : execAll [i] s = exec i s := by
  rw [execAll]
  cases exec i s <;> rfl

/-- Settles O48: the strobes leave the clock alone, so TICK's scan finds what the receipt's does. -/
theorem wireUnitArrivesThroughTick : Obligations.WireUnitArrivesThroughTick := by
  intro u now s hwire
  have hscan : receiveUnit Config.params (encode u) { s with nowReg := now } =
      scan Config.params { rbPushBytes Config.params (encode u) s with nowReg := now } := by
    rw [receiveUnit, rbPushBytes_nowReg]
  have htick : exec (.tick now) (rbPushBytes Config.params (encode u) s) =
      runOutcome (tickWith Config.params now (rbPushBytes Config.params (encode u) s)) := rfl
  rw [execAll_append_asmRx, execAll_singleton, htick, exec_wire hwire, hscan, tickWith_eq]
  rcases scan Config.params { rbPushBytes Config.params (encode u) s with nowReg := now } with (fl | r) | t <;> rfl

end Sys2Proof.Machine
end

section
/-! The frame codec (40_frame_codec.md R65 to R71): what DECODE answers for a complete frame, by its kind and by
whether its last byte is the checksum of the others. -/

namespace Sys2Proof.Machine

variable {P : Params} {kind : FrameKind} {len : Byte} {f g : List Byte}

/-- The length class of the candidates of a kind (R57, R68). -/
def kindClass : FrameKind → LenClass
  | .ack => .ack
  | .data => .data

/-- DECODE's Ok for a kind (R68): an ACK frame carries its ACKN only. -/
def accepted : FrameKind → Nibble → Nibble → List Byte → Decoded
  | .ack, _, ackn, _ => .okAck ackn
  | .data, own, ackn, p => .okData own ackn p

/-- The last byte is the checksum of those before it (R68). -/
def ChecksumValid (P : Params) (g : List Byte) : Prop := g.getLast? = some (P.cs g.dropLast)

/-- DECODE looks at no byte behind the frame (R68). -/
theorem decodeFrame_of_complete (extra : List Byte) (hclass : lenClass P len = kindClass kind)
    (hlen : f.length + 1 = len.toNat) : decodeFrame P len (f ++ extra) = decodeComplete P kind (len :: f) := by
  have hroom : ¬ (f ++ extra).length + 1 < len.toNat := by rw [List.length_append]; omega
  have hframe : (len :: (f ++ extra)).take len.toNat = len :: f := by
    rw [← hlen, List.take_succ_cons, List.take_left]
  cases kind <;> simp only [decodeFrame, hclass, kindClass, if_neg hroom, hframe]

theorem decodeComplete_of_invalid (h : ¬ ChecksumValid P g) : decodeComplete P kind g = .checksumError kind := if_pos h

theorem decodeComplete_of_valid {sq : Byte} {tail : List Byte} (h : ChecksumValid P (len :: sq :: tail)) :
    decodeComplete P kind (len :: sq :: tail) = accepted kind (seqOwn sq) (seqAckn sq) tail.dropLast :=
  (if_neg (not_not.2 h)).trans (by cases kind <;> rfl)

/-! ## DECODE of an encoded frame (R70) -/

/-- A frame with the checksum of its bytes, whatever follows it, is accepted with its own fields (R68). -/
theorem decodeFrame_withChecksum {own ackn : Nibble} {p : List Byte} (extra : List Byte)
    (hclass : lenClass P len = kindClass kind) (hlen : len.toNat = p.length + 3) :
    decodeFrame P len (seqByte own ackn :: p ++ [P.cs (len :: seqByte own ackn :: p)] ++ extra) =
      accepted kind own ackn p := by
  have hvalid : ChecksumValid P (len :: seqByte own ackn :: (p ++ [P.cs (len :: seqByte own ackn :: p)])) :=
    withChecksum_valid P (len :: seqByte own ackn :: p)
  rw [decodeFrame_of_complete extra hclass (by simp [hlen]), List.cons_append, decodeComplete_of_valid hvalid,
    List.dropLast_concat, seqOwn_seqByte, seqAckn_seqByte]

/-- Settles O8: both encoders write a length byte of the frame's own class and length, and the checksum. -/
theorem codecRoundTrip : Obligations.CodecRoundTrip := by
  refine fun P extra => ⟨fun p own ackn hlo hhi hown => ?_, fun ackn => ?_⟩
  · exact ⟨_, _, encodeData_eq_ok.2 ⟨⟨hlo, hhi, hown⟩, rfl⟩,
      decodeFrame_withChecksum (kind := .data) extra (lenClass_frameLength hlo hhi) (frameLength_toNat hhi)⟩
  · exact ⟨_, _, rfl, decodeFrame_withChecksum (kind := .ack) (p := []) extra (lenClass_three P) rfl⟩

/-! ## One byte changed (R71) -/

theorem kind_eq_of_accepted {kind' : FrameKind} {own ackn own' ackn' : Nibble} {p p' : List Byte}
    (h : accepted kind own ackn p = accepted kind' own' ackn' p') : kind = kind' :=
  match kind, kind', h with
  | .ack, .ack, _ => rfl
  | .data, .data, _ => rfl

theorem checksumError_ne_accepted {kind' : FrameKind} {own ackn : Nibble} {p : List Byte} :
    Decoded.checksumError kind ≠ accepted kind' own ackn p := by
  cases kind' <;> exact Decoded.noConfusion

/-- A candidate accepted as a frame of some kind is a candidate of that kind, with the checksum of its bytes. -/
theorem decodeComplete_accepted {kind' : FrameKind} {sq : Byte} {tail : List Byte} {own ackn : Nibble} {p : List Byte}
    (h : decodeComplete P kind (len :: sq :: tail) = accepted kind' own ackn p) :
    kind = kind' ∧ ChecksumValid P (len :: sq :: tail) := by
  by_cases hvalid : ChecksumValid P (len :: sq :: tail)
  · exact ⟨kind_eq_of_accepted ((decodeComplete_of_valid hvalid).symm.trans h), hvalid⟩
  · exact absurd ((decodeComplete_of_invalid hvalid).symm.trans h) checksumError_ne_accepted

/-- What DECODE accepts has the length class of its kind and the checksum of its bytes (R68). -/
theorem decodeFrame_accepted {own ackn : Nibble} {p : List Byte} (hlen : f.length + 1 = len.toNat)
    (h : decodeFrame P len f = accepted kind own ackn p) :
    lenClass P len = kindClass kind ∧ ChecksumValid P (len :: f) := by
  have of_candidate : ∀ k, lenClass P len = kindClass k →
      lenClass P len = kindClass kind ∧ ChecksumValid P (len :: f) := fun k hclass => by
    have hlong : 3 ≤ len.toNat := three_le_of_frame (P := P) (by cases k; exacts [.inl hclass, .inr hclass])
    obtain ⟨sq, tail, rfl⟩ := List.exists_cons_of_length_pos (l := f) (by omega)
    have hdecode := decodeFrame_of_complete [] hclass hlen
    rw [List.append_nil, h] at hdecode
    obtain ⟨rfl, hvalid⟩ := decodeComplete_accepted hdecode.symm
    exact ⟨hclass, hvalid⟩
  cases hclass : lenClass P len with
  | idle | badlen => cases kind <;> simp [decodeFrame, hclass, accepted] at h
  | ack => exact hclass ▸ of_candidate .ack hclass
  | data => exact hclass ▸ of_candidate .data hclass

/-- A changed checksum byte is not the checksum; a changed byte before it changes the checksum (R9, SBD). -/
theorem ChecksumValid.not_changed {pre post : List Byte} {a b : Byte} (hab : a ≠ b)
    (h : ChecksumValid P (pre ++ a :: post)) : ¬ ChecksumValid P (pre ++ b :: post) := by
  unfold ChecksumValid at *
  intro h'
  obtain rfl | ⟨post, c, rfl⟩ := post.eq_nil_or_concat
  · rw [List.getLast?_concat, List.dropLast_concat] at h h'
    exact hab (Option.some.inj (h.trans h'.symm))
  · rw [List.concat_eq_append, ← List.cons_append, ← List.append_assoc, List.getLast?_concat, List.dropLast_concat]
      at h h'
    exact P.cs_sbd pre post a b hab (Option.some.inj (h.symm.trans h'))

theorem checksumError_of_changed {pre post : List Byte} {a b : Byte} {own ackn : Nibble} {p : List Byte} (hab : a ≠ b)
    (hlen : pre.length + post.length + 2 = len.toNat)
    (h : decodeFrame P len (pre ++ a :: post) = accepted kind own ackn p) :
    decodeFrame P len (pre ++ b :: post) = .checksumError kind := by
  have hframe : ∀ c, (pre ++ c :: post).length + 1 = len.toNat := fun c => by
    rw [List.length_append, List.length_cons]; omega
  obtain ⟨hclass, hvalid⟩ := decodeFrame_accepted (hframe a) h
  have hdecode := decodeFrame_of_complete [] hclass (hframe b)
  rw [List.append_nil] at hdecode
  exact hdecode.trans (decodeComplete_of_invalid (hvalid.not_changed (pre := len :: pre) hab))

/-- Settles O9: an accepted frame keeps its class, and its changed bytes do not have their checksum. -/
theorem singleByteCorruption : Obligations.SingleByteCorruption := fun _ _ _ _ _ _ hab hlen =>
  ⟨fun ackn h => checksumError_of_changed (kind := .ack) (own := 0#4) (ackn := ackn) (p := []) hab hlen h,
    fun own ackn p h => checksumError_of_changed (kind := .data) (own := own) (ackn := ackn) (p := p) hab hlen h⟩

end Sys2Proof.Machine
end

section
/-! SCAN as a run of passes (41_receive_resync.md R73): what one pass is and how the loop exits, that a scan from any
state of the invariant answers, and that it is the scan from any state its passes reach. The loop's bound (log 11) is
dealt with here, and nowhere after. -/

namespace Sys2Proof.Machine

variable {P : Params} {s t u : State}

/-! ## Passes and exits -/

/-- One pass of SCAN's loop that goes on (R73). -/
inductive ScanPass (P : Params) : State → State → Prop
  | seek {s t : State} : s.rxState = .seeking → s.rbUsed ≠ 0 → stepSeek P s = .ok t → ScanPass P s t
  | complete {s : State} : s.rxState = .accumulating → s.rxLen.toNat ≤ s.rbUsed →
      ScanPass P s { s with rxState := .frameComplete }
  | progress {s t : State} : s.rxState = .frameComplete → stepComplete P s = .ok (.progress t) → ScanPass P s t

/-- The loop's exit from the first state, which leaves the second (R73). -/
inductive ScanExit (P : Params) : State → State → Prop
  | empty {s : State} : s.rxState = .seeking → s.rbUsed = 0 → ScanExit P s s
  | short {s : State} : s.rxState = .accumulating → s.rbUsed < s.rxLen.toNat → ScanExit P s s
  | stall {s t : State} : s.rxState = .frameComplete → stepComplete P s = .ok (.stall t) → ScanExit P s t

/-- Any number of passes one after the other. -/
abbrev ScanPasses (P : Params) : State → State → Prop := Relation.ReflTransGen (ScanPass P)

theorem scanLoop_of_pass (h : ScanPass P s t) (fuel : Nat) : scanLoop P (fuel + 1) s = scanLoop P fuel t := by
  cases h with
  | seek hrx hne hstep => simp only [scanLoop, hrx, if_neg hne, hstep, run_ok_bind]
  | complete hrx hused => simp only [scanLoop, hrx, if_neg (Nat.not_lt.2 hused)]
  | progress hrx hstep => simp only [scanLoop, hrx, hstep, run_ok_bind]

theorem scanLoop_of_exit (h : ScanExit P s t) (fuel : Nat) : scanLoop P (fuel + 1) s = .ok t := by
  cases h with
  | empty hrx hused => exact scanLoop_empty _ hrx hused
  | short hrx hshort => simp only [scanLoop, hrx, if_pos hshort]
  | stall hrx hstep => simp only [scanLoop, hrx, hstep, run_ok_bind]

/-! ## The loop ends by itself -/

theorem ScanPass.scanInv (h : ScanPass P s t) (hi : ScanInv P s) : ScanInv P t := by
  cases h with
  | seek hrx _ hstep => exact stepSeek_scanInv hi hrx hstep
  | complete hrx hused => exact complete_scanInv hi hrx hused
  | progress hrx hstep =>
    obtain ⟨ht, -⟩ := stepComplete_progress hi hrx hstep
    exact ht

theorem ScanPass.measure_lt (h : ScanPass P s t) (hi : ScanInv P s) : scanMeasure t < scanMeasure s := by
  cases h with
  | seek hrx _ hstep => exact scanMeasure_stepSeek hrx hstep
  | complete hrx _ => simp only [scanMeasure, hrx]; omega
  | progress hrx hstep =>
    obtain ⟨-, hlt⟩ := stepComplete_progress hi hrx hstep
    exact hlt

theorem ScanPasses.scanInv (h : ScanPasses P s t) (hi : ScanInv P s) : ScanInv P t := by
  induction h with
  | refl => exact hi
  | tail _ hpass ih => exact hpass.scanInv ih

/-- `inbound_data` answers whenever the payload fits the mailbox (R82). -/
theorem inboundData_answers {own : Nibble} {p : List Byte} (hp : p.length ≤ P.maxMsgLen) (s : State) :
    ∃ t, inboundData P own p s = .ok t := by
  by_cases h0 : own = 0#4
  · exact ⟨_, h0 ▸ inboundData_reserved p s⟩
  by_cases hseen : own = s.seqLastSeen
  · exact ⟨_, by rw [inboundData, if_neg h0, if_pos hseen]⟩
  · exact ⟨_, inboundData_new h0 hseen hp⟩

/-- `consume` answers for a frame that stands whole in the ring (R76). -/
theorem consume_answers {len sq : Byte} {tail : List Byte} (hclass : lenClass P len = .ack ∨ lenClass P len = .data)
    (htail : tail.length + 2 = len.toNat) (hused : len.toNat ≤ s.rbUsed) : ∃ t, consume P len sq tail s = .ok t := by
  by_cases hlong : overhead < len.toNat
  · have hrange := range_of_data (data_of_long hclass hlong)
    obtain ⟨t, ht⟩ := inboundData_answers (P := P) (own := seqOwn sq) (p := tail.dropLast)
      (by rw [List.length_dropLast]; omega) (afterAck P len sq s)
    exact ⟨t, consume_eq_ok.2 ⟨hused, by rw [if_pos hlong]; exact ht⟩⟩
  · exact ⟨_, consume_eq_ok.2 ⟨hused, by rw [if_neg hlong]⟩⟩

/-- `step_complete` answers for every complete candidate (R75). -/
theorem stepComplete_answers (hi : ScanInv P s) (hrx : s.rxState = .frameComplete) :
    ∃ r, stepComplete P s = .ok r := by
  obtain ⟨sq, tail, hg, htail⟩ := ringBytes_candidate hi.receive hrx
  obtain ⟨hpos, -, hclass⟩ := hi.receive.candidate (by rw [hrx]; decide)
  have hused := hi.receive.complete_used hrx
  rw [stepComplete_eq (hi.side.areas .scratch).1 hused (le_maxFrameLen_of_frame hclass) hg]
  split
  · rw [skipByte_eq_ok (s := candidateState P s).2 ⟨hpos, rfl⟩]
    exact ⟨_, rfl⟩
  · split
    · exact ⟨_, rfl⟩
    · obtain ⟨t, ht⟩ := consume_answers (s := candidateState P s) (sq := sq) hclass htail hused
      rw [ht]
      exact ⟨_, rfl⟩

/-- The loop always knows how to go on (R73). -/
theorem ScanInv.pass_or_exit (hi : ScanInv P s) : (∃ t, ScanPass P s t) ∨ ∃ t, ScanExit P s t := by
  cases hrx : s.rxState with
  | seeking =>
    by_cases hused : s.rbUsed = 0
    · exact .inr ⟨s, .empty hrx hused⟩
    · obtain ⟨t, ht⟩ := stepSeek_answers P hused
      exact .inl ⟨t, .seek hrx hused ht⟩
  | accumulating =>
    by_cases hused : s.rbUsed < s.rxLen.toNat
    · exact .inr ⟨s, .short hrx hused⟩
    · exact .inl ⟨_, .complete hrx (Nat.not_lt.1 hused)⟩
  | frameComplete =>
    obtain ⟨t | t, ht⟩ := stepComplete_answers hi hrx
    · exact .inl ⟨t, .progress hrx ht⟩
    · exact .inr ⟨t, .stall hrx ht⟩

/-- From every state of the invariant the passes reach an exit: each makes the measure smaller. -/
theorem ScanInv.passes_to_exit (hi : ScanInv P s) : ∃ u t, ScanPasses P s u ∧ ScanExit P u t := by
  induction hn : scanMeasure s using Nat.strong_induction_on generalizing s with
  | _ n ih =>
    rcases hi.pass_or_exit with ⟨v, hpass⟩ | ⟨t, hexit⟩
    · obtain ⟨u, t, hpasses, hexit⟩ := ih _ (hn ▸ hpass.measure_lt hi) (hpass.scanInv hi) rfl
      exact ⟨u, t, .head hpass hpasses, hexit⟩
    · exact ⟨s, t, .refl, hexit⟩

/-- Passes that reach an exit are the whole scan (R73). -/
theorem scan_of_passes (hi : ScanInv P s) (hpasses : ScanPasses P s u) (hexit : ScanExit P u t) :
    scan P s = .ok t := by
  have loop : ∀ fuel, scanMeasure s < fuel → scanLoop P fuel s = .ok t := by
    induction hpasses using Relation.ReflTransGen.head_induction_on with
    | refl =>
      intro fuel hlt
      obtain ⟨fuel, rfl⟩ := Nat.exists_eq_succ_of_ne_zero (Nat.ne_of_gt (Nat.zero_lt_of_lt hlt))
      exact scanLoop_of_exit hexit fuel
    | head hpass _ ih =>
      intro fuel hlt
      obtain ⟨fuel, rfl⟩ := Nat.exists_eq_succ_of_ne_zero (Nat.ne_of_gt (Nat.zero_lt_of_lt hlt))
      have hless := hpass.measure_lt hi
      rw [scanLoop_of_pass hpass]
      exact ih (hpass.scanInv hi) fuel (by omega)
  exact loop _ (scanMeasure_lt_scanFuel s)

/-- Every scan from a state of the invariant answers, through passes that reach an exit. -/
theorem scan_answers (hi : ScanInv P s) : ∃ u t, ScanPasses P s u ∧ ScanExit P u t ∧ scan P s = .ok t := by
  obtain ⟨u, t, hpasses, hexit⟩ := hi.passes_to_exit
  exact ⟨u, t, hpasses, hexit, scan_of_passes hi hpasses hexit⟩

/-- What a scan has yet to do after some of its passes is a scan of its own. -/
theorem scan_eq_of_passes (hi : ScanInv P s) (h : ScanPasses P s t) : scan P s = scan P t := by
  obtain ⟨u, v, hpasses, hexit, e⟩ := scan_answers (h.scanInv hi)
  rw [e, scan_of_passes hi (h.trans hpasses) hexit]

/-- A scan that answers went through passes and an exit. -/
theorem scan_eq_ok (hi : ScanInv P s) : scan P s = .ok t ↔ ∃ u, ScanPasses P s u ∧ ScanExit P u t := by
  constructor
  · intro h
    obtain ⟨u, v, hpasses, hexit, e⟩ := scan_answers hi
    obtain rfl := Except.ok.inj (e.symm.trans h)
    exact ⟨u, hpasses, hexit⟩
  · rintro ⟨u, hpasses, hexit⟩
    exact scan_of_passes hi hpasses hexit

/-- A stall leaves the candidate in `scratch`, and nothing else changes (R75). -/
theorem stepComplete_stall_eq (hi : ScanInv P s) (hrx : s.rxState = .frameComplete)
    (h : stepComplete P s = .ok (.stall t)) : t = candidateState P s := by
  obtain ⟨sq, tail, hg, -⟩ := ringBytes_candidate hi.receive hrx
  rcases stepComplete_cases hi hrx hg h with ⟨u, -, e⟩ | ⟨-, -, e⟩ | ⟨u, -, e⟩
  · cases e
  · exact ScanProgress.stall.inj e
  · cases e

/-- A scan that ends at the frame-start position has nothing left to read (R73). -/
theorem scan_empties (hi : ScanInv P s) (h : scan P s = .ok t) (hrx : t.rxState = .seeking) : t.rbUsed = 0 := by
  obtain ⟨u, hpasses, hexit⟩ := (scan_eq_ok hi).1 h
  cases hexit with
  | empty _ hused => exact hused
  | short hacc _ => cases hacc.symm.trans hrx
  | stall hcomplete hstall =>
    rw [stepComplete_stall_eq (hpasses.scanInv hi) hcomplete hstall] at hrx
    cases hcomplete.symm.trans hrx

end Sys2Proof.Machine
end

section
/-! What a scan leaves alone and what it counts (41_receive_resync.md R73 to R76; 44_baud_and_counters.md R98), what
the rest of a TICK leaves alone, and how a TICK ends (45_tick_and_host.md R102). -/

namespace Sys2Proof.Machine

variable {P : Params} {s t u : State}

/-! ## Counting events -/

/-- A state that agrees on the events and the error counters has counted nothing. -/
theorem countsEvents_nil (hevents : t.events = s.events) (hack : t.errAckChecksum = s.errAckChecksum)
    (hframe : t.errFrame = s.errFrame) (hmsg : t.errMsgChecksum = s.errMsgChecksum)
    (hover : t.errOverflow = s.errOverflow) : CountsEvents s t [] :=
  ⟨by rw [hevents, List.append_nil], hack, hframe, hmsg, hover⟩

theorem CountsEvents.trans {es es' : List Event} (h₁ : CountsEvents s t es) (h₂ : CountsEvents t u es') :
    CountsEvents s u (es ++ es') := by
  obtain ⟨hevents, hack, hframe, hmsg, hover⟩ := h₁
  obtain ⟨hevents', hack', hframe', hmsg', hover'⟩ := h₂
  have hsum : frameErrors (es ++ es') = frameErrors es' + frameErrors es := by
    simp only [frameErrors, List.count_append]
    omega
  refine ⟨?_, ?_, ?_, ?_, ?_⟩
  · rw [hevents', hevents, List.append_assoc]
  · rw [hack', hack, ← Function.iterate_add_apply, List.count_append, Nat.add_comm]
  · rw [hframe', hframe, ← Function.iterate_add_apply, hsum]
  · rw [hmsg', hmsg, ← Function.iterate_add_apply, List.count_append, Nat.add_comm]
  · rw [hover', hover, ← Function.iterate_add_apply, List.count_append, Nat.add_comm]

/-! ## SCAN -/

/-- What a scan leaves alone, the clock and the ports, and that its counters account for its events. -/
structure ScanKeeps (s t : State) : Prop where
  nowReg : t.nowReg = s.nowReg
  out : t.out = s.out
  cmdIn : t.cmdIn = s.cmdIn
  counts : ∃ es, CountsEvents s t es

theorem ScanKeeps.refl (s : State) : ScanKeeps s s :=
  ⟨rfl, rfl, rfl, [], countsEvents_nil rfl rfl rfl rfl rfl⟩

theorem ScanKeeps.trans (h₁ : ScanKeeps s t) (h₂ : ScanKeeps t u) : ScanKeeps s u := by
  obtain ⟨es, hes⟩ := h₁.counts
  obtain ⟨es', hes'⟩ := h₂.counts
  exact ⟨h₂.nowReg.trans h₁.nowReg, h₂.out.trans h₁.out, h₂.cmdIn.trans h₁.cmdIn, _, hes.trans hes'⟩

theorem stepSeek_keeps (h : stepSeek P s = .ok t) : ScanKeeps s t := by
  obtain ⟨-, ⟨-, rfl⟩ | ⟨-, rfl⟩ | ⟨-, rfl⟩⟩ := stepSeek_cases h
  · exact { ScanKeeps.refl s with }
  · exact ⟨rfl, rfl, rfl, [.frameErrorBadlen], rfl, rfl, rfl, rfl, rfl⟩
  · exact { ScanKeeps.refl s with }

theorem skipByte_keeps (h : skipByte P s = .ok t) : ScanKeeps s t := by
  obtain ⟨-, rfl⟩ := skipByte_eq_ok.1 h
  refine ⟨rfl, rfl, rfl, [if s.rxLen.toNat = overhead then .checksumErrorAck else .checksumErrorData], ?_⟩
  split_ifs <;> exact ⟨rfl, rfl, rfl, rfl, rfl⟩

theorem inboundData_keeps {own : Nibble} {p : List Byte} (h : inboundData P own p s = .ok t) : ScanKeeps s t := by
  rcases inboundData_cases h with ⟨-, rfl⟩ | ⟨-, -, rfl⟩ | ⟨-, -, -, rfl⟩
  · exact ⟨rfl, rfl, rfl, [.frameErrorSeq0], rfl, rfl, rfl, rfl, rfl⟩
  · exact { ScanKeeps.refl s with }
  · exact { ScanKeeps.refl s with }

theorem afterAck_keeps (P : Params) (len sq : Byte) (s : State) : ScanKeeps s (afterAck P len sq s) := by
  rw [afterAck, inboundAck_frame]
  exact { ScanKeeps.refl s with }

theorem consume_keeps {len sq : Byte} {tail : List Byte} (h : consume P len sq tail s = .ok t) : ScanKeeps s t := by
  obtain ⟨-, h⟩ := consume_eq_ok.1 h
  split at h
  · exact (afterAck_keeps P len sq s).trans (inboundData_keeps h)
  · rw [h]; exact afterAck_keeps P len sq s

theorem candidateState_keeps (P : Params) (s : State) : ScanKeeps s (candidateState P s) :=
  { ScanKeeps.refl s with }

theorem stepComplete_progress_keeps (hi : ScanInv P s) (hrx : s.rxState = .frameComplete)
    (h : stepComplete P s = .ok (.progress t)) : ScanKeeps s t := by
  refine (candidateState_keeps P s).trans ?_
  rcases stepComplete_progress_cases hi hrx h with hskip | ⟨sq, tail, v, -, hv, rfl⟩
  · exact skipByte_keeps hskip
  · exact (consume_keeps hv).trans { ScanKeeps.refl v with }

theorem ScanPass.keeps (hi : ScanInv P s) (h : ScanPass P s t) : ScanKeeps s t := by
  cases h with
  | seek _ _ hstep => exact stepSeek_keeps hstep
  | complete _ _ => exact { ScanKeeps.refl s with }
  | progress hrx hstep => exact stepComplete_progress_keeps hi hrx hstep

theorem ScanPasses.keeps (hi : ScanInv P s) (h : ScanPasses P s t) : ScanKeeps s t := by
  induction h with
  | refl => exact .refl s
  | tail hpasses hpass ih => exact ih.trans (hpass.keeps (ScanPasses.scanInv hpasses hi))

theorem ScanExit.keeps (hi : ScanInv P s) (h : ScanExit P s t) : ScanKeeps s t := by
  cases h with
  | empty _ _ => exact .refl s
  | short _ _ => exact .refl s
  | stall hrx hstep => exact stepComplete_stall_eq hi hrx hstep ▸ candidateState_keeps P s

theorem scanKeeps_of_scan (hi : ScanInv P s) (h : scan P s = .ok t) : ScanKeeps s t := by
  obtain ⟨u, hpasses, hexit⟩ := (scan_eq_ok hi).1 h
  exact (hpasses.keeps hi).trans (hexit.keeps (hpasses.scanInv hi))

/-! ## The rest of a TICK -/

/-- What framing, the retransmission timer and BAUD_APPLY leave alone besides the ring and the scanner (R86, R87,
R95). -/
structure TickRestKeeps (s t : State) : Prop where
  slotRx : t.slotRx = s.slotRx
  slotRxLen : t.slotRxLen = s.slotRxLen
  nowReg : t.nowReg = s.nowReg
  out : t.out = s.out
  cmdIn : t.cmdIn = s.cmdIn
  ackOwed : t.ackOwed = s.ackOwed
  errFrame : t.errFrame = s.errFrame

theorem frameOrTimer_keeps (h : frameOrTimer P s = .ok t) : TickRestKeeps s t := by
  unfold frameOrTimer at h
  split at h
  · obtain ⟨-, rfl⟩ := frameFromSlot_eq_ok.1 h
    exact ⟨rfl, rfl, rfl, rfl, rfl, rfl, rfl⟩
  · obtain rfl := Except.ok.inj h
    rcases retxTimer_cases P s with ⟨-, -, -, -, -, e⟩ | ⟨-, e⟩ <;> rw [e] <;>
      exact ⟨rfl, rfl, rfl, rfl, rfl, rfl, rfl⟩

theorem TickRestKeeps.baudApply (h : TickRestKeeps s t) : TickRestKeeps s (baudApply t) := by
  rcases baudApply_cases t with ⟨-, -, e⟩ | ⟨-, e⟩ <;> rw [e] <;> exact { h with }

/-- Latching the clock touches no field of the invariant (R102). -/
theorem withNowReg_inv (now : Word) (hi : Inv P s) : Inv P { s with nowReg := now } := { hi with }

/-- R36 as worded, and no unread byte at the frame-start position, is a scanner that can do no more. -/
theorem R36.scanQuiescent (h : R36 P s) (hempty : s.rxState = .seeking → s.rbUsed = 0) : ScanQuiescent s := by
  cases hrx : s.rxState with
  | seeking => exact .inl ⟨hrx, hempty hrx⟩
  | accumulating => exact .inr (.inl ⟨hrx, h.accumulating_short hrx⟩)
  | frameComplete => exact .inr (.inr ⟨hrx, h.stalled_mailbox hrx⟩)

/-- Settles O32: the scan's passes reach an exit, and the rest of the TICK leaves the scanner, the clock and the
ports. -/
theorem tickScansToTheEnd : Obligations.TickScansToTheEnd := by
  intro now s t hi h
  have hr36 := tickWith_r36 hi (runOutcome_eq_next.1 h)
  obtain ⟨u, hu, h⟩ := run_bind_eq_ok.1 (runOutcome_eq_next.1 h)
  obtain ⟨v, hv, h⟩ := run_bind_eq_ok.1 h
  obtain rfl := Except.ok.inj h
  have hclock := (withNowReg_inv now hi).scanInv
  have hscan := scanKeeps_of_scan hclock hu
  have hrest := (frameOrTimer_keeps hv).baudApply
  have hreceiver := ((frameOrTimer_offReceive (P := Config.params) hv).trans (baudApply_offReceive v)).receiver
  refine ⟨hr36.scanQuiescent fun hrx => ?_, hr36.stalled_valid, hrest.nowReg.trans hscan.nowReg,
    hrest.out.trans hscan.out, hrest.cmdIn.trans hscan.cmdIn⟩
  rw [hreceiver.rbUsed]
  exact scan_empties hclock hu (hreceiver.rxState ▸ hrx)

end Sys2Proof.Machine
end

section
/-! The scanner's judgement of a complete candidate against DECODE's (41_receive_resync.md R75, R76; 40_frame_codec.md
R68): both ask whether the last byte is the checksum of the others, and then take the same fields from the bytes. -/

namespace Sys2Proof.Machine

variable {P : Params} {s t : State} {kind : FrameKind} {len sq : Byte} {tail : List Byte}

/-! ## The candidate's bytes -/

/-- The bytes of a frame candidate begin with its length byte and hold a sequence byte and a checksum (R54, R55). -/
theorem ringBytes_frame (hlen : s.rxLen = memRead s.rb (rbOffset P s 0)) (h3 : 3 ≤ s.rxLen.toNat) :
    ∃ sq tail, ringBytes P s.rxLen.toNat s = s.rxLen :: sq :: tail ∧ tail.length + 2 = s.rxLen.toNat := by
  have hlength := ringBytes_length P s.rxLen.toNat s
  have hfirst : (ringBytes P s.rxLen.toNat s)[0]'(by omega) = s.rxLen := by simp [ringBytes, ← hlen]
  match hg : ringBytes P s.rxLen.toNat s with
  | [] => simp [hg] at hlength; omega
  | [_] => simp [hg] at hlength; omega
  | b :: sq :: tail =>
    simp only [hg, List.getElem_cons_zero] at hfirst
    rw [hg] at hlength
    exact ⟨sq, tail, by rw [hfirst], hlength⟩

theorem class_of_kind (hclass : lenClass P len = kindClass kind) : lenClass P len = .ack ∨ lenClass P len = .data := by
  cases kind
  · exact .inl hclass
  · exact .inr hclass

theorem exists_kind (hclass : lenClass P len = .ack ∨ lenClass P len = .data) :
    ∃ kind, lenClass P len = kindClass kind :=
  hclass.elim (fun h => ⟨.ack, h⟩) fun h => ⟨.data, h⟩

/-- Of the two kinds of frame only an ACK is as short as the overhead (R54, R55). -/
theorem toNat_eq_overhead_iff (hclass : lenClass P len = kindClass kind) : len.toNat = overhead ↔ kind = .ack := by
  cases kind with
  | ack => rw [eq_three_of_ack hclass]; decide
  | data =>
    have := P.min_pos
    have hrange := range_of_data hclass
    simp only [overhead, reduceCtorEq, iff_false]
    omega

theorem overhead_lt_iff (hclass : lenClass P len = kindClass kind) : overhead < len.toNat ↔ kind = .data := by
  have hack := toNat_eq_overhead_iff hclass
  have h3 : overhead ≤ len.toNat := three_le_of_frame (class_of_kind hclass)
  cases kind <;> simp only [reduceCtorEq, iff_false, iff_true] at hack ⊢ <;> omega

/-! ## The scanner's judgement -/

/-- The candidate before the scanner: its class is `kind`'s, and its bytes stand in the ring (R74, R75). -/
structure Candidate (P : Params) (kind : FrameKind) (sq : Byte) (tail : List Byte) (s : State) : Prop where
  scratch_wf : s.scratch.wf
  used : s.rxLen.toNat ≤ s.rbUsed
  rxClass : lenClass P s.rxLen = kindClass kind
  bytes : ringBytes P s.rxLen.toNat s = s.rxLen :: sq :: tail
  length : tail.length + 2 = s.rxLen.toNat

theorem Candidate.stepComplete_eq (h : Candidate P kind sq tail s) :
    stepComplete P s =
      if (s.rxLen :: sq :: tail).getLast? ≠ some (P.cs (s.rxLen :: sq :: tail).dropLast) then
        (skipByte P (candidateState P s)).map .progress
      else if mustStall (seqOwn sq) s then .ok (.stall (candidateState P s))
      else (consume P s.rxLen sq tail (candidateState P s)).map fun t => .progress (seekAgain t) :=
  Machine.stepComplete_eq h.scratch_wf h.used (le_maxFrameLen_of_frame (class_of_kind h.rxClass)) h.bytes

/-- The first unread byte is dropped, and a checksum error of the candidate's kind counted (R75). -/
def byteSkipped (P : Params) (kind : FrameKind) (s : State) : State :=
  { s with
    rbHead := (s.rbHead + 1) % P.rbSize
    rbUsed := s.rbUsed - 1
    rxState := .seeking
    rxLen := 0#8
    errAckChecksum := if kind = .ack then satInc s.errAckChecksum else s.errAckChecksum
    errMsgChecksum := if kind = .data then satInc s.errMsgChecksum else s.errMsgChecksum
    events := s.events ++ [if kind = .ack then .checksumErrorAck else .checksumErrorData] }

theorem skipByte_eq_byteSkipped (hclass : lenClass P s.rxLen = kindClass kind) (hused : 1 ≤ s.rbUsed) :
    skipByte P s = .ok (byteSkipped P kind s) := by
  rw [skipByte_eq_ok.2 ⟨hused, rfl⟩]
  simp only [toNat_eq_overhead_iff hclass]
  cases kind <;> rfl

/-- A wrong checksum loses the candidate its length byte only (R75). -/
theorem Candidate.stepComplete_invalid (h : Candidate P kind sq tail s)
    (hbad : ¬ ChecksumValid P (s.rxLen :: sq :: tail)) :
    stepComplete P s = .ok (.progress (byteSkipped P kind (candidateState P s))) := by
  have hused : 1 ≤ s.rbUsed := by have := h.used; have := h.length; omega
  rw [h.stepComplete_eq.trans (if_pos hbad), skipByte_eq_byteSkipped (s := candidateState P s) h.rxClass hused]
  rfl

/-- A valid new data frame before a full mailbox: a stall (R75). -/
theorem Candidate.stepComplete_stall (h : Candidate P .data sq tail s)
    (hgood : ChecksumValid P (s.rxLen :: sq :: tail)) (hne : seqOwn sq ≠ 0#4) (hnew : seqOwn sq ≠ s.seqLastSeen)
    (hfull : s.slotRxLen ≠ 0#8) : stepComplete P s = .ok (.stall (candidateState P s)) := by
  have hstall := mustStall_iff.2 ⟨(overhead_lt_iff h.rxClass).2 rfl, hne, hnew, hfull⟩
  exact h.stepComplete_eq.trans ((if_neg (not_not.2 hgood)).trans (if_pos hstall))

/-- A valid frame is consumed when the mailbox need not take it or can (R75, R76). -/
theorem Candidate.stepComplete_consume (h : Candidate P kind sq tail s)
    (hgood : ChecksumValid P (s.rxLen :: sq :: tail))
    (hfree : kind = .data → seqOwn sq ≠ 0#4 → seqOwn sq ≠ s.seqLastSeen → s.slotRxLen = 0#8)
    (hconsume : consume P s.rxLen sq tail (candidateState P s) = .ok t) :
    stepComplete P s = .ok (.progress (seekAgain t)) := by
  have hgo : ¬ mustStall (seqOwn sq) s = true := fun hstall => by
    obtain ⟨hlong, hne, hnew, hfull⟩ := mustStall_iff.1 hstall
    exact hfull (hfree ((overhead_lt_iff h.rxClass).1 hlong) hne hnew)
  rw [h.stepComplete_eq.trans ((if_neg (not_not.2 hgood)).trans (if_neg hgo)), hconsume]
  rfl

/-- A valid ACK frame is consumed and its ACK honoured (R76, R80). -/
theorem Candidate.stepComplete_ack (h : Candidate P .ack sq tail s) (hgood : ChecksumValid P (s.rxLen :: sq :: tail)) :
    stepComplete P s = .ok (.progress (seekAgain (afterAck P s.rxLen sq (candidateState P s)))) := by
  have hshort : ¬ overhead < s.rxLen.toNat := fun hlong => by cases (overhead_lt_iff h.rxClass).1 hlong
  exact h.stepComplete_consume hgood nofun (consume_eq_ok.2 ⟨h.used, by rw [if_neg hshort]⟩)

/-- A valid data frame that need not stall is consumed: its ACK is honoured, then its payload dealt with (R76, R82).
-/
theorem Candidate.stepComplete_data (h : Candidate P .data sq tail s) (hgood : ChecksumValid P (s.rxLen :: sq :: tail))
    (hfree : seqOwn sq ≠ 0#4 → seqOwn sq ≠ s.seqLastSeen → s.slotRxLen = 0#8)
    (hdata : inboundData P (seqOwn sq) tail.dropLast (afterAck P s.rxLen sq (candidateState P s)) = .ok t) :
    stepComplete P s = .ok (.progress (seekAgain t)) :=
  h.stepComplete_consume hgood (fun _ => hfree)
    (consume_eq_ok.2 ⟨h.used, by rw [if_pos ((overhead_lt_iff h.rxClass).2 rfl)]; exact hdata⟩)

/-- What the ACK nibble does to the state in which the candidate is judged, it does to the state before (R80). -/
theorem afterAck_candidateState (P : Params) (sq : Byte) (s : State) :
    afterAck P s.rxLen sq (candidateState P s) =
      { inboundAck (seqAckn sq) s with
        scratch := (candidateState P s).scratch
        rbHead := (s.rbHead + s.rxLen.toNat) % P.rbSize
        rbUsed := s.rbUsed - s.rxLen.toNat
        rxState := s.rxState
        rxLen := s.rxLen
        rb := s.rb
        zeroRun := 0#32 } :=
  inboundAck_receiveSide (seqAckn sq) s s.rb (candidateState P s).scratch
    ((s.rbHead + s.rxLen.toNat) % P.rbSize) (s.rbUsed - s.rxLen.toNat) s.rxState s.rxLen 0#32

/-! ## What a data frame does to the numbers -/

@[simp] theorem inboundAck_slotRx (a : Nibble) (s : State) : (inboundAck a s).slotRx = s.slotRx := by
  rw [inboundAck_frame]

@[simp] theorem inboundAck_slotRxLen (a : Nibble) (s : State) : (inboundAck a s).slotRxLen = s.slotRxLen := by
  rw [inboundAck_frame]

@[simp] theorem inboundAck_seqLastSeen (a : Nibble) (s : State) : (inboundAck a s).seqLastSeen = s.seqLastSeen := by
  rw [inboundAck_frame]

@[simp] theorem inboundAck_ackOwed (a : Nibble) (s : State) : (inboundAck a s).ackOwed = s.ackOwed := by
  rw [inboundAck_frame]

@[simp] theorem inboundAck_errFrame (a : Nibble) (s : State) : (inboundAck a s).errFrame = s.errFrame := by
  rw [inboundAck_frame]

/-- What `inbound_data` does to the number last seen, the ACK owed and the frame errors, and what it leaves (R82):
only the reserved number is no number seen. -/
structure DataCounted (own : Nibble) (s t : State) : Prop where
  rbUsed : t.rbUsed = s.rbUsed
  zeroRun : t.zeroRun = s.zeroRun
  seqCur : t.seqCur = s.seqCur
  sendLen : t.sendLen = s.sendLen
  seqLastSeen : t.seqLastSeen = if own = 0#4 then s.seqLastSeen else own
  ackOwed : t.ackOwed = if own = 0#4 then s.ackOwed else true
  errFrame : t.errFrame = if own = 0#4 then satInc s.errFrame else s.errFrame

theorem inboundData_counted {own : Nibble} {p : List Byte} (h : inboundData P own p s = .ok t) :
    DataCounted own s t := by
  rcases inboundData_cases h with ⟨h0, rfl⟩ | ⟨h0, hseen, rfl⟩ | ⟨h0, -, -, rfl⟩
  · exact ⟨rfl, rfl, rfl, rfl, (if_pos h0).symm, (if_pos h0).symm, (if_pos h0).symm⟩
  · exact ⟨rfl, rfl, rfl, rfl, hseen ▸ (if_neg h0).symm, (if_neg h0).symm, (if_neg h0).symm⟩
  · exact ⟨rfl, rfl, rfl, rfl, (if_neg h0).symm, (if_neg h0).symm, (if_neg h0).symm⟩

/-! ## DECODE's judgement -/

theorem Candidate.decodeFrame_eq (h : Candidate P kind sq tail s) :
    decodeFrame P s.rxLen (ringBytes P s.rxLen.toNat s).tail = decodeComplete P kind (s.rxLen :: sq :: tail) := by
  have hdecode := decodeFrame_of_complete (f := sq :: tail) [] h.rxClass h.length
  rw [h.bytes, List.tail_cons]
  rwa [List.append_nil] at hdecode

/-- Settles O10: by whether the checksum is right, then by the candidate's kind; the scanner takes ACKN, OWN and the
payload from the same bytes as DECODE. -/
theorem scannerAgreesWithDecode : Obligations.ScannerAgreesWithDecode := by
  intro P s hwf hused hclass hlen
  obtain ⟨kind, hkind⟩ := exists_kind hclass
  obtain ⟨sq, tail, hbytes, htail⟩ := ringBytes_frame hlen (three_le_of_frame hclass)
  have hc : Candidate P kind sq tail s := ⟨hwf, hused, hkind, hbytes, htail⟩
  rw [hc.decodeFrame_eq]
  by_cases hgood : ChecksumValid P (s.rxLen :: sq :: tail)
  · rw [decodeComplete_of_valid hgood]
    have hack := afterAck_candidateState P sq s
    cases kind with
    | ack =>
      have h3 : s.rxLen.toNat = 3 := (toNat_eq_overhead_iff hkind).2 rfl
      refine ⟨_, hc.stepComplete_ack hgood, ?_⟩
      rw [hack, h3]
      exact ⟨rfl, rfl, rfl, rfl, rfl, rfl, inboundAck_slotRxLen _ s, inboundAck_ackOwed _ s,
        inboundAck_seqLastSeen _ s⟩
    | data =>
      have hrange := range_of_data hkind
      have hpayload : tail.dropLast.length + 3 = s.rxLen.toNat := by
        rw [List.length_dropLast]
        have := P.min_pos
        omega
      simp only [accepted]
      by_cases hstall : seqOwn sq ≠ 0#4 ∧ seqOwn sq ≠ s.seqLastSeen ∧ s.slotRxLen ≠ 0#8
      · rw [if_pos hstall]
        obtain ⟨hne, hnew, hfull⟩ := hstall
        exact ⟨_, hc.stepComplete_stall hgood hne hnew hfull, rfl⟩
      · rw [if_neg hstall]
        obtain ⟨t, ht⟩ := inboundData_answers (P := P) (own := seqOwn sq) (p := tail.dropLast) (by omega)
          (afterAck P s.rxLen sq (candidateState P s))
        have hfree : seqOwn sq ≠ 0#4 → seqOwn sq ≠ s.seqLastSeen → s.slotRxLen = 0#8 := fun hne hnew => by
          by_contra hfull
          exact hstall ⟨hne, hnew, hfull⟩
        have hdone := inboundData_counted ht
        rw [hack] at hdone
        refine ⟨_, hc.stepComplete_data hgood hfree ht, ?_, rfl, hdone.zeroRun, hdone.seqCur, hdone.sendLen, ?_, ?_, ?_⟩
        · rw [hpayload]; exact hdone.rbUsed
        · simpa using hdone.seqLastSeen
        · simpa using hdone.ackOwed
        · simpa using hdone.errFrame
  · rw [decodeComplete_of_invalid hgood]
    exact ⟨_, hc.stepComplete_invalid hgood, rfl, rfl, rfl, rfl, rfl, rfl, rfl, rfl⟩

end Sys2Proof.Machine
end

section
/-! A frame at the front of the unread bytes (41_receive_resync.md R73 to R75): the passes that make it the scanner's
complete candidate; then the frames that a block at rest does not take, a new one before a full mailbox and a corrupt
one. -/

namespace Sys2Proof.Machine

variable {P : Params} {s t u : State} {kind : FrameKind} {len sq : Byte} {f tail rest : List Byte}

/-! ## The front of the unread bytes -/

theorem rbUsed_of_unread (h : unread P s = f) : s.rbUsed = f.length := by
  rw [← h, unread, ringBytes_length]

/-- What is unread is where the ring's pointers say, and nothing else of the state (R17). -/
theorem unread_congr (hrb : t.rb = s.rb) (hhead : t.rbHead = s.rbHead) (hused : t.rbUsed = s.rbUsed) :
    unread P t = unread P s := by
  simp only [unread, ringBytes, rbOffset, hrb, hhead, hused]

theorem ringBytes_of_unread (h : unread P s = f ++ rest) : ringBytes P f.length s = f := by
  have hused := rbUsed_of_unread h
  rw [List.length_append] at hused
  calc ringBytes P f.length s = (unread P s).take f.length := by
        rw [unread, ringBytes, ringBytes, ← List.map_take, List.take_range, Nat.min_eq_left (by omega)]
    _ = f := by rw [h, List.take_left]

/-- The byte at the frame-start position is the first unread one (R39). -/
theorem memRead_of_unread {b : Byte} (h : unread P s = b :: rest) : memRead s.rb (rbOffset P s 0) = b :=
  (List.cons.inj (ringBytes_of_unread (f := [b]) h)).1

/-- Once the first unread bytes are dropped, those behind them are left (R40). -/
theorem unread_of_drop (h : unread P s = f ++ rest) (hrb : t.rb = s.rb)
    (hhead : t.rbHead = (s.rbHead + f.length) % P.rbSize) (hused : t.rbUsed = s.rbUsed - f.length) :
    unread P t = rest := by
  have hn : f.length ≤ s.rbUsed := by rw [rbUsed_of_unread h, List.length_append]; omega
  calc unread P t = (unread P s).drop f.length := by
        rw [← unread_drop (rbDrop_eq_ok (P := P).2 ⟨hn, rfl⟩)]
        exact unread_congr hrb hhead hused
    _ = rest := by rw [h, List.drop_left]

/-- A frame whose bytes are the first unread ones is the scanner's candidate (R74, R75). -/
theorem candidate_of_unread (hwf : s.scratch.wf) (hclass : lenClass P s.rxLen = kindClass kind)
    (hlen : tail.length + 2 = s.rxLen.toNat) (h : unread P s = s.rxLen :: sq :: tail ++ rest) :
    Candidate P kind sq tail s where
  scratch_wf := hwf
  used := by rw [rbUsed_of_unread h, ← hlen, List.length_append, List.length_cons, List.length_cons]; omega
  rxClass := hclass
  bytes := by rw [← hlen]; exact ringBytes_of_unread h
  length := hlen

/-- From the frame-start position two passes make the first unread bytes the complete candidate (R73, R74). -/
theorem passes_to_candidate (hrx : s.rxState = .seeking) (hclass : lenClass P len = kindClass kind)
    (hlen : tail.length + 2 = len.toNat) (h : unread P s = len :: sq :: tail ++ rest) :
    ScanPasses P s (completeCandidate len s) := by
  have hused := rbUsed_of_unread h
  rw [List.length_append, List.length_cons, List.length_cons] at hused
  have hseek := stepSeek_of_frame (memRead_of_unread h) (class_of_kind hclass) (by omega)
  have hcomplete : len.toNat ≤ s.rbUsed := by omega
  exact .head (.seek hrx (by omega) hseek) (.single (.complete rfl hcomplete))

/-! ## A frame at rest -/

theorem unread_rbPushBytes_idle (hi : Inv P s) (hidle : RingIdle s) (hfit : f.length ≤ P.rbSize) :
    unread P (rbPushBytes P f s) = f := by
  rw [unread, rbUsed_rbPushBytes_idle hi hidle hfit, ringBytes_rbPushBytes hi hidle hfit]

theorem rbPushBytes_rxState (hidle : RingIdle s) (hfit : f.length ≤ P.rbSize) :
    (rbPushBytes P f s).rxState = .seeking := by
  rw [rbPushBytes_room (hidle.room hfit)]
  exact hidle.seeking

/-- A frame has room in the ring (R8). -/
theorem frame_fits_ring (hclass : lenClass P len = kindClass kind) (hlen : tail.length + 2 = len.toNat) :
    (len :: sq :: tail).length ≤ P.rbSize := by
  have hmax := le_maxFrameLen_of_frame (class_of_kind hclass)
  have hring := maxFrameLen_le_rbSize P
  rw [List.length_cons, List.length_cons]
  omega

/-- A frame received at rest comes before the scanner whole (R72 to R74). -/
theorem receive_frame (hi : Inv P s) (hidle : RingIdle s) (hclass : lenClass P len = kindClass kind)
    (hlen : tail.length + 2 = len.toNat) :
    ScanPasses P (rbPushBytes P (len :: sq :: tail) s) (completeCandidate len (rbPushBytes P (len :: sq :: tail) s))
    ∧ Candidate P kind sq tail (completeCandidate len (rbPushBytes P (len :: sq :: tail) s)) := by
  have hfit : (len :: sq :: tail).length ≤ P.rbSize := frame_fits_ring hclass hlen
  have hunread : unread P (rbPushBytes P (len :: sq :: tail) s) = len :: sq :: tail ++ [] := by
    rw [unread_rbPushBytes_idle hi hidle hfit, List.append_nil]
  have hwf := (rbPushBytes_inv (len :: sq :: tail) hi).mem_wf .scratch
  exact ⟨passes_to_candidate (rbPushBytes_rxState hidle hfit) hclass hlen hunread,
    candidate_of_unread (s := completeCandidate len _) hwf hclass hlen hunread⟩

/-! ## A new frame before a full mailbox -/

theorem unread_judgedFrame (len : Byte) (f : List Byte) (s : State) :
    unread P (judgedFrame P len f s) = unread P (rbPushBytes P f s) := rfl

/-- A valid new data frame received at rest before a full mailbox stays in the ring, judged (R75). -/
theorem receiveUnit_stall (hi : Inv P s) (hidle : RingIdle s) (hclass : lenClass P len = .data)
    (hlen : tail.length + 2 = len.toNat) (hgood : ChecksumValid P (len :: sq :: tail)) (hne : seqOwn sq ≠ 0#4)
    (hnew : seqOwn sq ≠ s.seqLastSeen) (hfull : s.slotRxLen ≠ 0#8) :
    receiveUnit P (len :: sq :: tail) s = .ok (judgedFrame P len (len :: sq :: tail) s) := by
  obtain ⟨hpasses, hc⟩ := receive_frame (kind := .data) (sq := sq) hi hidle hclass hlen
  have hroom := rbPushBytes_room (P := P) (s := s) (f := len :: sq :: tail)
    (hidle.room (frame_fits_ring (kind := .data) hclass hlen))
  refine scan_of_passes (rbPushBytes_inv _ hi).scanInv hpasses (.stall rfl (hc.stepComplete_stall hgood hne ?_ ?_))
  · rw [completeCandidate, hroom]; exact hnew
  · rw [completeCandidate, hroom]; exact hfull

/-- Settles O45: the frame becomes the complete candidate, and the scanner stalls on it. -/
theorem fullMailboxStallsNewData : Obligations.FullMailboxStallsNewData := by
  intro own ackn p s hi hidle hlo hhi hne hnew hfull
  have hclass := lenClass_frameLength hlo hhi
  have hlen : (p ++ [Config.params.cs (dataBody p own ackn)]).length + 2 = (BitVec.ofNat 8 (p.length + 3)).toNat := by
    rw [frameLength_toNat hhi]; simp
  have hfit := frame_fits_ring (kind := .data) (sq := seqByte own ackn) hclass hlen
  have hstall := receiveUnit_stall hi hidle hclass hlen (withChecksum_valid Config.params (dataBody p own ackn))
    (by rwa [seqOwn_seqByte]) (by rwa [seqOwn_seqByte]) hfull
  refine ⟨_, runOutcome_eq_next.2 hstall, ?_, ?_⟩
  · rw [judgedFrame_eq hi hidle hlen.symm hfit]
    simp
  · exact (unread_judgedFrame _ _ s).trans (unread_rbPushBytes_idle hi hidle hfit)

/-! ## A corrupt frame -/

/-- A corrupt frame received at rest loses its length byte, and the scan goes on from there (R73, R75). -/
theorem receiveUnit_corrupt (hi : Inv P s) (hidle : RingIdle s) (hclass : lenClass P len = kindClass kind)
    (hlen : tail.length + 2 = len.toNat) (hbad : ¬ ChecksumValid P (len :: sq :: tail)) :
    ScanInv P (byteSkipped P kind (judgedFrame P len (len :: sq :: tail) s))
    ∧ receiveUnit P (len :: sq :: tail) s = scan P (byteSkipped P kind (judgedFrame P len (len :: sq :: tail) s)) := by
  obtain ⟨hpasses, hc⟩ := receive_frame (sq := sq) hi hidle hclass hlen
  have hskip : ScanPasses P _ _ := hpasses.tail (.progress rfl (hc.stepComplete_invalid hbad))
  have harrived := (rbPushBytes_inv (len :: sq :: tail) hi).scanInv
  exact ⟨ScanPasses.scanInv hskip harrived, scan_eq_of_passes harrived hskip⟩

/-- What a corrupt frame received at rest leaves once its length byte is dropped: its other bytes unread. -/
theorem unread_byteSkipped (hi : Inv P s) (hidle : RingIdle s) (hclass : lenClass P len = kindClass kind)
    (hlen : tail.length + 2 = len.toNat) :
    unread P (byteSkipped P kind (judgedFrame P len (len :: sq :: tail) s)) = sq :: tail := by
  have hfit : (len :: sq :: tail).length ≤ P.rbSize := frame_fits_ring hclass hlen
  have hunread := (unread_judgedFrame len _ s).trans (unread_rbPushBytes_idle hi hidle hfit)
  exact unread_of_drop (f := [len]) hunread rfl rfl rfl

/-- The same state field by field: the scanner is back at the frame-start position. -/
theorem byteSkipped_judgedFrame (hi : Inv P s) (hidle : RingIdle s) (hlen : len.toNat = f.length)
    (hfit : f.length ≤ P.rbSize) :
    byteSkipped P kind (judgedFrame P len f s) =
      { s with
        rb := (rbPushBytes P f s).rb
        scratch := memWriteBytes s.scratch 0 f
        rbHead := (s.rbHead + 1) % P.rbSize
        rbUsed := f.length - 1
        errAckChecksum := if kind = .ack then satInc s.errAckChecksum else s.errAckChecksum
        errMsgChecksum := if kind = .data then satInc s.errMsgChecksum else s.errMsgChecksum
        events := s.events ++ [if kind = .ack then .checksumErrorAck else .checksumErrorData] } := by
  rw [judgedFrame_eq hi hidle hlen hfit, byteSkipped]
  obtain ⟨hrx, hrxLen, -⟩ := hidle
  rw [hrx, hrxLen]

/-- The ring outside the places the frame went through (R41). -/
theorem memRead_rbPushBytes_idle {n j : Nat} (hidle : RingIdle s) (hlen : f.length = n) (hfit : n ≤ P.rbSize)
    (hj : ∀ k, k < n → j ≠ rbOffset P s k) : memRead (rbPushBytes P f s).rb j = memRead s.rb j := by
  subst hlen
  refine memRead_rbPushBytes_other (hidle.room hfit) fun k hk => ?_
  rw [hidle.used, Nat.zero_add]
  exact hj k hk

theorem checksumValid_concat {body : List Byte} {chk : Byte} :
    ChecksumValid P (body ++ [chk]) ↔ chk = P.cs body := by
  rw [ChecksumValid, List.getLast?_concat, List.dropLast_concat, Option.some_inj]

/-- Settles O46: the length byte is dropped and the error counted, and whatever the scan from there does it counts. -/
theorem corruptDataIsCounted : Obligations.CorruptDataIsCounted := by
  intro own ackn p chk s hi hidle hlo hhi hchk
  have hclass := lenClass_frameLength hlo hhi
  have hlen : (p ++ [chk]).length + 2 = (BitVec.ofNat 8 (p.length + 3)).toNat := by
    rw [frameLength_toNat hhi]; simp
  have hsize : (BitVec.ofNat 8 (p.length + 3) :: seqByte own ackn :: (p ++ [chk])).length = p.length + 3 := by simp
  have hfit := frame_fits_ring (kind := .data) (sq := seqByte own ackn) hclass hlen
  have hbad : ¬ ChecksumValid Config.params (dataBody p own ackn ++ [chk]) := fun h => hchk (checksumValid_concat.1 h)
  have hu := byteSkipped_judgedFrame (kind := .data) hi hidle hlen.symm hfit
  have hunread := unread_byteSkipped (kind := .data) (sq := seqByte own ackn) hi hidle hclass hlen
  obtain ⟨hinv, hscan⟩ := receiveUnit_corrupt (kind := .data) hi hidle hclass hlen hbad
  rw [hu] at hinv hscan hunread
  obtain ⟨-, t, -, -, ht⟩ := scan_answers hinv
  obtain ⟨es, hes⟩ := (scanKeeps_of_scan hinv ht).counts
  refine ⟨_, t, es, runOutcome_eq_next.2 (hscan.trans ht), ht, ?_, hunread, ?_, ?_, ?_⟩
  · rw [hsize]; rfl
  · exact fun j hj => memRead_rbPushBytes_idle hidle hsize (hsize ▸ hfit) hj
  · exact fun j hj => memRead_memWriteBytes_outside (hi.mem_wf .scratch) (.inr (by omega))
  · exact CountsEvents.trans ⟨rfl, rfl, rfl, rfl, rfl⟩ hes

/-! ## Too few bytes for any frame -/

/-- What a scan may do without a complete candidate: drop bytes, start a candidate, and count idle bytes and frame
errors (R74). -/
def OnlySeeks (s t : State) : Prop :=
  t = { s with
        rbHead := t.rbHead
        rbUsed := t.rbUsed
        rxState := t.rxState
        rxLen := t.rxLen
        zeroRun := t.zeroRun
        errFrame := t.errFrame
        events := t.events }

theorem OnlySeeks.trans (h₁ : OnlySeeks s t) (h₂ : OnlySeeks t u) : OnlySeeks s u := by
  unfold OnlySeeks at *
  rw [h₂, h₁]

theorem stepSeek_onlySeeks (hrx : s.rxState = .seeking) (h : stepSeek P s = .ok t) :
    OnlySeeks s t ∧ t.rbUsed ≤ s.rbUsed ∧ t.rxState ≠ .frameComplete := by
  obtain ⟨-, ⟨-, rfl⟩ | ⟨-, rfl⟩ | ⟨-, rfl⟩⟩ := stepSeek_cases h
  · exact ⟨rfl, Nat.sub_le _ 1, by rw [hrx]; decide⟩
  · exact ⟨rfl, Nat.sub_le _ 1, by rw [hrx]; decide⟩
  · exact ⟨rfl, Nat.le_refl _, nofun⟩

/-- What every pass from `s` keeps as long as fewer bytes are unread than the shortest frame has (R54, R55). -/
structure FewUnread (P : Params) (s v : State) : Prop where
  scanInv : ScanInv P v
  only : OnlySeeks s v
  few : v.rbUsed < 3
  incomplete : v.rxState ≠ .frameComplete

theorem FewUnread.not_complete (h : FewUnread P s u) (hrx : u.rxState = .accumulating) : u.rbUsed < u.rxLen.toNat := by
  obtain ⟨-, -, hclass⟩ := h.scanInv.receive.candidate (by rw [hrx]; decide)
  exact Nat.lt_of_lt_of_le h.few (three_le_of_frame hclass)

/-- Too few bytes for any frame make no complete candidate (R73). -/
theorem scan_onlySeeks (hi : ScanInv P s) (hrx : s.rxState = .seeking) (hfew : s.rbUsed < 3) (h : scan P s = .ok t) :
    OnlySeeks s t :=
  scan_ends (I := FewUnread P s) (Q := OnlySeeks s)
    (seek := fun _ _ hv hrx hstep => by
      obtain ⟨hseek, hused, hne⟩ := stepSeek_onlySeeks hrx hstep
      exact ⟨stepSeek_scanInv hv.scanInv hrx hstep, hv.only.trans hseek, Nat.lt_of_le_of_lt hused hv.few, hne⟩)
    (complete := fun _ hv hrx hused => absurd hused (Nat.not_le.2 (hv.not_complete hrx)))
    (progress := fun _ _ hv hrx _ => absurd hrx hv.incomplete)
    (empty := fun _ hv _ => hv.only)
    (short := fun _ hv _ _ => hv.only)
    (stall := fun _ _ hv hrx _ => absurd hrx hv.incomplete)
    ⟨hi, rfl, hfew, by rw [hrx]; decide⟩ h

/-- Settles O41: the length byte is dropped and the error counted, and the two bytes left are too few for any frame.
-/
theorem corruptAckIsCounted : Obligations.CorruptAckIsCounted := by
  intro own ackn chk s hi hidle hchk
  have hclass : lenClass Config.params 0x03#8 = kindClass .ack := lenClass_three _
  have hlen : [chk].length + 2 = (0x03#8).toNat := rfl
  have hfit := frame_fits_ring (sq := seqByte own ackn) hclass hlen
  have hbad : ¬ ChecksumValid Config.params ([0x03#8, seqByte own ackn] ++ [chk]) :=
    fun h => hchk (checksumValid_concat.1 h)
  have hu := byteSkipped_judgedFrame (kind := .ack) hi hidle hlen.symm hfit
  have hunread := unread_byteSkipped (sq := seqByte own ackn) hi hidle hclass hlen
  obtain ⟨hinv, hscan⟩ := receiveUnit_corrupt hi hidle hclass hlen hbad
  rw [hu] at hinv hscan hunread
  obtain ⟨-, t, -, -, ht⟩ := scan_answers hinv
  refine ⟨_, t, runOutcome_eq_next.2 (hscan.trans ht), ht, rfl, hunread, ?_, ?_, ?_⟩
  · exact fun j hj => memRead_rbPushBytes_idle hidle rfl hfit hj
  · exact fun j hj => memRead_memWriteBytes_outside (hi.mem_wf .scratch) (.inr (by simpa using hj))
  · exact scan_onlySeeks hinv hidle.seeking (Nat.lt_succ_self 2) ht

end Sys2Proof.Machine
end

section
/-! Resynchronization (41_receive_resync.md R77, scenario E8): what each stage of two TICKs does to the bytes of a
frame, BADLEN garbage and a second frame, put together. -/

namespace Sys2Proof.Machine

variable {P : Params} {s t u v : State} {own ackn own2 ackn2 : Nibble} {p p2 garbage rest : List Byte}

/-! ## The stages of a scan -/

/-- The receive mailbox holds the payload `p` of the frame numbered `own`, the number last seen, whose ACK is owed;
the bytes `rest` are unread. -/
structure HoldsPayload (P : Params) (own : Nibble) (p rest : List Byte) (t : State) : Prop where
  unread : unread P t = rest
  slotRxLen : t.slotRxLen = BitVec.ofNat 8 p.length
  payload : memReadBytes t.slotRx 0 p.length = p
  seqLastSeen : t.seqLastSeen = own
  ackOwed : t.ackOwed = true

/-- A payload that a data frame can carry (R54). -/
structure FitsFrame (P : Params) (p : List Byte) : Prop where
  min_le : P.minMsgLen ≤ p.length
  le_max : p.length ≤ P.maxMsgLen

/-- The block can take the frame numbered `own`: a new number, and the receive mailbox empty (R75, R82). -/
structure CanTake (own : Nibble) (s : State) : Prop where
  own_ne : own ≠ 0#4
  new : own ≠ s.seqLastSeen
  empty : s.slotRxLen = 0#8

theorem dataFrame_tail_length (P : Params) (own ackn : Nibble) (hp : FitsFrame P p) :
    (p ++ [P.cs (dataBody p own ackn)]).length + 2 = (BitVec.ofNat 8 (p.length + 3)).toNat := by
  rw [frameLength_toNat hp.le_max, List.length_append, List.length_singleton]

theorem candidate_of_dataFrame (hi : ScanInv P s) (hp : FitsFrame P p)
    (hrxLen : s.rxLen = BitVec.ofNat 8 (p.length + 3))
    (h : unread P s = withChecksum P (dataBody p own ackn) ++ rest) :
    Candidate P .data (seqByte own ackn) (p ++ [P.cs (dataBody p own ackn)]) s :=
  candidate_of_unread (hi.side.areas .scratch).1 (hrxLen ▸ lenClass_frameLength hp.min_le hp.le_max)
    (hrxLen ▸ dataFrame_tail_length P own ackn hp) (by rw [hrxLen]; exact h)

/-- A complete valid frame that the block can take: its payload goes into the mailbox and the bytes behind it stay
unread (R75, R76, R82). -/
theorem stepComplete_delivers (hi : ScanInv P s) (hp : FitsFrame P p) (hrxLen : s.rxLen = BitVec.ofNat 8 (p.length + 3))
    (h : unread P s = withChecksum P (dataBody p own ackn) ++ rest) (htake : CanTake own s) :
    ∃ t, stepComplete P s = .ok (.progress t) ∧ HoldsPayload P own p rest t
      ∧ t.rxState = .seeking ∧ t.errFrame = s.errFrame := by
  have hc := candidate_of_dataFrame hi hp hrxLen h
  have hframe : s.rxLen.toNat = (withChecksum P (dataBody p own ackn)).length := by
    rw [hrxLen, frameLength_toNat hp.le_max]; simp
  have hgood : ChecksumValid P (s.rxLen :: seqByte own ackn :: (p ++ [P.cs (dataBody p own ackn)])) :=
    hrxLen ▸ withChecksum_valid P (dataBody p own ackn)
  have hack := afterAck_candidateState P (seqByte own ackn) s
  rw [seqAckn_seqByte] at hack
  have hnew : own ≠ (afterAck P s.rxLen (seqByte own ackn) (candidateState P s)).seqLastSeen := by
    rw [hack]; simpa using htake.new
  have hdata := inboundData_new htake.own_ne hnew hp.le_max
  have hstep := hc.stepComplete_data hgood (fun _ _ => htake.empty)
    (by rw [seqOwn_seqByte, List.dropLast_concat]; exact hdata)
  rw [hack] at hstep
  refine ⟨_, hstep, ⟨?_, rfl, ?_, rfl, rfl⟩, rfl, inboundAck_errFrame ackn s⟩
  · exact unread_of_drop h rfl (congrArg (fun n => (s.rbHead + n) % P.rbSize) hframe)
      (congrArg (fun n => s.rbUsed - n) hframe)
  · show memReadBytes (memWriteBytes (inboundAck ackn s).slotRx 0 p) 0 p.length = p
    rw [inboundAck_slotRx]
    exact memReadBytes_memWriteBytes (hi.side.areas .slotRx).1 0 p

/-- Garbage of class BADLEN is dropped byte by byte, and each byte counts one frame error (R74). -/
theorem passes_garbage (hrx : s.rxState = .seeking) (hbad : ∀ g ∈ garbage, lenClass P g = .badlen)
    (h : unread P s = garbage ++ rest) :
    ∃ t, ScanPasses P s t ∧ unread P t = rest
      ∧ t = { s with
              rbHead := t.rbHead
              rbUsed := t.rbUsed
              errFrame := satInc^[garbage.length] s.errFrame
              events := t.events } := by
  induction garbage generalizing s with
  | nil => exact ⟨s, .refl, h, rfl⟩
  | cons g garbage ih =>
    have hne : s.rbUsed ≠ 0 := by rw [rbUsed_of_unread h]; exact Nat.succ_ne_zero _
    have hstep := stepSeek_of_badlen (P := P) (s := s)
      (by rw [memRead_of_unread h]; exact hbad g List.mem_cons_self) hne
    obtain ⟨t, hpasses, hrest, ht⟩ := ih (s := { s with
        rbHead := (s.rbHead + 1) % P.rbSize
        rbUsed := s.rbUsed - 1
        errFrame := satInc s.errFrame
        events := s.events ++ [.frameErrorBadlen] })
      hrx (fun b hb => hbad b (List.mem_cons_of_mem g hb))
      (unread_of_drop (f := [g]) h rfl rfl rfl)
    exact ⟨t, .head (.seek hrx hne hstep) hpasses, hrest, ht⟩

/-- Garbage behind a delivered frame leaves the payload and what goes with it. -/
theorem HoldsPayload.passes_garbage (h : HoldsPayload P own p (garbage ++ rest) s) (hrx : s.rxState = .seeking)
    (hbad : ∀ g ∈ garbage, lenClass P g = .badlen) :
    ∃ t, ScanPasses P s t ∧ HoldsPayload P own p rest t ∧ t.rxState = .seeking
      ∧ t.errFrame = satInc^[garbage.length] s.errFrame := by
  obtain ⟨t, hpasses, hrest, ht⟩ := Machine.passes_garbage hrx hbad h.unread
  refine ⟨t, hpasses, ⟨hrest, ?_, ?_, ?_, ?_⟩, ?_, ?_⟩ <;> rw [ht]
  · exact h.slotRxLen
  · exact h.payload
  · exact h.seqLastSeen
  · exact h.ackOwed
  · exact hrx

theorem payloadLength_ne_zero (hp : FitsFrame P p) : BitVec.ofNat 8 p.length ≠ 0#8 := fun h => by
  have hlen := lengthByte_toNat hp.le_max
  have hpos := P.min_pos
  have hmin := hp.min_le
  rw [h, BitVec.toNat_zero] at hlen
  omega

/-- A second new frame behind a delivered payload that still waits stalls (R75). -/
theorem HoldsPayload.passes_to_stall (h : HoldsPayload P own p (withChecksum P (dataBody p2 own2 ackn2)) s)
    (hi : ScanInv P s) (hrx : s.rxState = .seeking) (hp : FitsFrame P p) (hp2 : FitsFrame P p2) (hne2 : own2 ≠ 0#4)
    (hnew2 : own2 ≠ own) :
    ∃ u t, ScanPasses P s u ∧ ScanExit P u t ∧ HoldsPayload P own p (withChecksum P (dataBody p2 own2 ackn2)) t
      ∧ t.rxState = .frameComplete ∧ t.rxLen = BitVec.ofNat 8 (p2.length + 3) ∧ t.errFrame = s.errFrame := by
  have hunread : Machine.unread P s = withChecksum P (dataBody p2 own2 ackn2) ++ [] := by rw [h.unread, List.append_nil]
  have hpasses : ScanPasses P s (completeCandidate (BitVec.ofNat 8 (p2.length + 3)) s) :=
    passes_to_candidate (kind := .data) hrx (lenClass_frameLength hp2.min_le hp2.le_max)
      (dataFrame_tail_length P own2 ackn2 hp2) hunread
  have hc := candidate_of_dataFrame (ScanPasses.scanInv hpasses hi) hp2 rfl hunread
  have hfull : s.slotRxLen ≠ 0#8 := h.slotRxLen ▸ payloadLength_ne_zero hp
  have hnew : own2 ≠ s.seqLastSeen := h.seqLastSeen ▸ hnew2
  have hstall := hc.stepComplete_stall (withChecksum_valid P (dataBody p2 own2 ackn2)) (by rwa [seqOwn_seqByte])
    (by rw [seqOwn_seqByte]; exact hnew) hfull
  exact ⟨_, _, hpasses, .stall rfl hstall, { h with }, rfl, rfl, rfl⟩

/-! ## The two scans -/

/-- The scan that finds a frame it can take, garbage and a second new frame: it delivers the first payload, drops the
garbage and stalls on the second frame (R77). -/
theorem scan_delivers_stalls (hi : ScanInv P s) (hrx : s.rxState = .seeking) (hp : FitsFrame P p)
    (hp2 : FitsFrame P p2) (htake : CanTake own s) (hne2 : own2 ≠ 0#4) (hnew2 : own2 ≠ own)
    (hbad : ∀ g ∈ garbage, lenClass P g = .badlen)
    (h : unread P s = withChecksum P (dataBody p own ackn) ++ (garbage ++ withChecksum P (dataBody p2 own2 ackn2))) :
    ∃ t, scan P s = .ok t ∧ HoldsPayload P own p (withChecksum P (dataBody p2 own2 ackn2)) t
      ∧ t.rxState = .frameComplete ∧ t.rxLen = BitVec.ofNat 8 (p2.length + 3)
      ∧ t.errFrame = satInc^[garbage.length] s.errFrame := by
  have hfirst : ScanPasses P s (completeCandidate (BitVec.ofNat 8 (p.length + 3)) s) :=
    passes_to_candidate (kind := .data) hrx (lenClass_frameLength hp.min_le hp.le_max)
      (dataFrame_tail_length P own ackn hp) h
  obtain ⟨u, hu, huholds, hurx, huerr⟩ := stepComplete_delivers (ScanPasses.scanInv hfirst hi) hp rfl h
    ⟨htake.own_ne, htake.new, htake.empty⟩
  obtain ⟨v, hgarbage, hvholds, hvrx, hverr⟩ := huholds.passes_garbage hurx hbad
  have htoV : ScanPasses P s v := (hfirst.tail (.progress rfl hu)).trans hgarbage
  obtain ⟨w, t, hsecond, hexit, htholds, htrx, htlen, hterr⟩ :=
    hvholds.passes_to_stall (ScanPasses.scanInv htoV hi) hvrx hp hp2 hne2 hnew2
  refine ⟨t, scan_of_passes hi (htoV.trans hsecond) hexit, htholds, htrx, htlen, ?_⟩
  rw [hterr, hverr, huerr]
  rfl

/-- The scan that finds a stalled frame it can take now, and nothing behind it: it delivers the payload (R75, R77). -/
theorem scan_takes_stalled (hi : ScanInv P s) (hrx : s.rxState = .frameComplete)
    (hrxLen : s.rxLen = BitVec.ofNat 8 (p.length + 3)) (hp : FitsFrame P p)
    (htake : CanTake own s) (h : unread P s = withChecksum P (dataBody p own ackn)) :
    ∃ t, scan P s = .ok t ∧ HoldsPayload P own p [] t ∧ t.rxState = .seeking ∧ t.errFrame = s.errFrame := by
  obtain ⟨t, ht, hholds, htrx, hterr⟩ := stepComplete_delivers hi hp hrxLen (h.trans (List.append_nil _).symm) htake
  have hempty : t.rbUsed = 0 := rbUsed_of_unread hholds.unread
  exact ⟨t, scan_of_passes hi (.single (.progress hrx ht)) (.empty htrx hempty), hholds, htrx, hterr⟩

/-! ## TICK and DRAIN -/

/-- Framing answers in every state of the invariant (R86). -/
theorem frameOrTimer_answers (hi : Inv P s) : ∃ t, frameOrTimer P s = .ok t := by
  unfold frameOrTimer
  split
  · next hc =>
    obtain ⟨-, hslot⟩ := hc
    obtain h0 | ⟨hlo, hhi⟩ := hi.slotTxLen_range
    · exact absurd h0 hslot
    · exact ⟨_, frameFromSlot_eq_ok.2 ⟨⟨hlo, hhi, hi.seqCur_pos⟩, rfl⟩⟩
  · exact ⟨_, rfl⟩

/-- What a TICK's scan delivers is there after the TICK (R102): the rest of it touches neither the scanner nor the
mailbox. -/
theorem tickWith_of_scan {now : Word} (hi : Inv P s) (h : scan P { s with nowReg := now } = .ok u)
    (hholds : HoldsPayload P own p rest u) :
    ∃ t, tickWith P now s = .ok t ∧ Inv P t ∧ SameReceiver u t ∧ HoldsPayload P own p rest t
      ∧ t.errFrame = u.errFrame ∧ t.out = s.out := by
  have hclock := withNowReg_inv now hi
  obtain ⟨v, hv⟩ := frameOrTimer_answers (scan_r36 hclock h).toInv
  have htick : tickWith P now s = .ok (baudApply v) :=
    run_bind_eq_ok.2 ⟨u, h, run_bind_eq_ok.2 ⟨v, hv, rfl⟩⟩
  have hrest := (frameOrTimer_keeps hv).baudApply
  have hreceiver := ((frameOrTimer_offReceive (P := P) hv).trans (baudApply_offReceive v)).receiver
  refine ⟨_, htick, (tickWith_r36 hi htick).toInv, hreceiver, ⟨?_, ?_, ?_, ?_, ?_⟩, hrest.errFrame,
    hrest.out.trans (scanKeeps_of_scan hclock.scanInv h).out⟩
  · rw [unread_congr hreceiver.rb hreceiver.rbHead hreceiver.rbUsed, hholds.unread]
  · rw [hrest.slotRxLen, hholds.slotRxLen]
  · rw [hrest.slotRx, hholds.payload]
  · rw [hreceiver.seqLastSeen, hholds.seqLastSeen]
  · rw [hrest.ackOwed, hholds.ackOwed]

/-- DRAIN hands the payload over (R104). -/
theorem HoldsPayload.drain (h : HoldsPayload P own p rest s) (hp : FitsFrame P p) :
    drainWith P s = .ok (respond (BitVec.ofNat 8 p.length :: p) (emptySlotRx P s)) := by
  have hlen : s.slotRxLen.toNat = p.length := by rw [h.slotRxLen, lengthByte_toNat hp.le_max]
  refine drainWith_eq_ok.2 (.inr ⟨h.slotRxLen ▸ payloadLength_ne_zero hp, hlen.le.trans hp.le_max, ?_⟩)
  rw [hlen, h.payload, h.slotRxLen]

/-! ## The run -/

theorem execAll_cons {i : Instr} (h : exec i s = .next t) (is : List Instr) : execAll (i :: is) s = execAll is t := by
  rw [execAll, h]

theorem exec_tick {now : Word} (h : tickWith Config.params now s = .ok t) : exec (.tick now) s = .next t :=
  runOutcome_eq_next.2 h

theorem exec_drain (h : drainWith Config.params s = .ok t) : exec .drain s = .next t := runOutcome_eq_next.2 h

theorem asmRx_append (a b : List Byte) : asmRx (a ++ b) = asmRx a ++ asmRx b := List.map_append

/-- The pseudo-instruction strobes the frame's bytes in (R64). -/
theorem asmRxData_eq (P : Params) (own ackn : Nibble) (p : List Byte) :
    asmRxData P own ackn p = asmRx (withChecksum P (dataBody p own ackn)) := rfl

/-- Two TICKs, a DRAIN after each, hand over both payloads in order (R77). -/
theorem ticks_deliver_both (now now2 : Word) (hi : Inv P s) (hrx : s.rxState = .seeking) (hp : FitsFrame P p)
    (hp2 : FitsFrame P p2) (htake : CanTake own s) (hne2 : own2 ≠ 0#4) (hnew2 : own2 ≠ own)
    (hbad : ∀ g ∈ garbage, lenClass P g = .badlen)
    (h : unread P s = withChecksum P (dataBody p own ackn) ++ (garbage ++ withChecksum P (dataBody p2 own2 ackn2))) :
    ∃ t₁ d₁ t₂ d₂,
      (tickWith P now s = .ok t₁ ∧ drainWith P t₁ = .ok d₁ ∧ tickWith P now2 d₁ = .ok t₂ ∧ drainWith P t₂ = .ok d₂)
      ∧ d₂.out = s.out ++ (BitVec.ofNat 8 p.length :: p) ++ (BitVec.ofNat 8 p2.length :: p2)
      ∧ d₂.errFrame = satInc^[garbage.length] s.errFrame
      ∧ d₂.seqLastSeen = own2 ∧ d₂.ackOwed = true ∧ d₂.rbUsed = 0 ∧ d₂.rxState = .seeking := by
  obtain ⟨u₁, hscan₁, hholds₁, hrx₁, hlen₁, herr₁⟩ := scan_delivers_stalls (s := { s with nowReg := now })
    (withNowReg_inv now hi).scanInv hrx hp hp2 ⟨htake.own_ne, htake.new, htake.empty⟩ hne2 hnew2 hbad h
  obtain ⟨t₁, htick₁, hinv₁, hsame₁, hheld₁, hterr₁, hout₁⟩ := tickWith_of_scan hi hscan₁ hholds₁
  have hdrain₁ := hheld₁.drain hp
  have hdinv := (drainWith_offRing hdrain₁).inv hinv₁
  obtain ⟨u₂, hscan₂, hholds₂, hrx₂, herr₂⟩ := scan_takes_stalled
    (s := { respond (BitVec.ofNat 8 p.length :: p) (emptySlotRx P t₁) with nowReg := now2 })
    (withNowReg_inv now2 hdinv).scanInv (hsame₁.rxState.trans hrx₁) (hsame₁.rxLen.trans hlen₁) hp2
    ⟨hne2, fun e => hnew2 (e.trans hheld₁.seqLastSeen), rfl⟩ hheld₁.unread
  obtain ⟨t₂, htick₂, -, hsame₂, hheld₂, hterr₂, hout₂⟩ := tickWith_of_scan hdinv hscan₂ hholds₂
  refine ⟨t₁, _, t₂, _, ⟨htick₁, hdrain₁, htick₂, hheld₂.drain hp2⟩, ?_, ?_, hheld₂.seqLastSeen, hheld₂.ackOwed,
    rbUsed_of_unread hheld₂.unread, hsame₂.rxState.trans hrx₂⟩
  · rw [respond_out, emptySlotRx_out, hout₂, respond_out, emptySlotRx_out, hout₁]
  · rw [respond_errFrame, emptySlotRx_errFrame, hterr₂, herr₂]
    exact hterr₁.trans herr₁

/-- Settles O49: the first TICK delivers the first payload and stalls on the second frame, and the second TICK, after
a DRAIN, takes it. -/
theorem resynchronizesAfterGarbage : Obligations.ResynchronizesAfterGarbage := by
  intro P own1 own2 ackn1 ackn2 p1 p2 garbage now1 now2 s hi hidle hempty hlo1 hhi1 hlo2 hhi2 hne1 hnew1 hne2 hnew2
    hbad hring
  have hfit : (withChecksum P (dataBody p1 own1 ackn1) ++ garbage ++ withChecksum P (dataBody p2 own2 ackn2)).length
      ≤ P.rbSize := by
    simp only [List.length_append, withChecksum_length, dataBody_length]
    omega
  have hunread := unread_rbPushBytes_idle hi hidle hfit
  have hroom := rbPushBytes_room (P := P) (hidle.room hfit)
  obtain ⟨t₁, d₁, t₂, d₂, ⟨htick₁, hdrain₁, htick₂, hdrain₂⟩, hout, herr, hrest⟩ :=
    ticks_deliver_both now1 now2 (rbPushBytes_inv _ hi) (rbPushBytes_rxState hidle hfit) ⟨hlo1, hhi1⟩ ⟨hlo2, hhi2⟩
      ⟨hne1, by rw [hroom]; exact hnew1, by rw [hroom]; exact hempty⟩ hne2 hnew2 hbad
      (hunread.trans (List.append_assoc _ _ _))
  refine ⟨d₂, ?_, ?_, ?_, ?_, hrest⟩
  · exact run_bind_eq_ok.2 ⟨t₁, htick₁, run_bind_eq_ok.2 ⟨d₁, hdrain₁, run_bind_eq_ok.2 ⟨t₂, htick₂, hdrain₂⟩⟩⟩
  · rintro rfl
    rw [asmRxData_eq, asmRxData_eq, ← asmRx_append, ← asmRx_append, execAll_append_asmRx,
      execAll_cons (exec_tick htick₁), execAll_cons (exec_drain hdrain₁), execAll_cons (exec_tick htick₂),
      execAll_cons (exec_drain hdrain₂)]
    rfl
  · rw [hout, hroom]
  · rw [herr, hroom]

end Sys2Proof.Machine
end

section
/-! Sequence numbers and acknowledgements (42_seq_ack.md R79, R82 to R84): the next number, a duplicate, and a frame
retransmitted after its payload was drained, its ACK sent between the copies or not. -/

namespace Sys2Proof.Machine

variable {P : Params} {s t : State} {own : Nibble} {p : List Byte}

/-! ## The next number -/

theorem nextSeq_toNat (n : Nibble) : (nextSeq n).toNat = n.toNat % 15 + 1 := by
  rw [nextSeq, BitVec.toNat_ofNat]
  omega

/-- Settles O37: the number wraps from 15 to 1. -/
theorem nextSequenceNumber : Obligations.NextSequenceNumber := fun n =>
  ⟨nextSeq_toNat n, nextSeq_ne_zero n, nextSeq_ne_self n⟩

/-! ## A duplicate -/

theorem inboundData_duplicate (hne : own ≠ 0#4) (hseen : own = s.seqLastSeen) :
    inboundData P own p s = .ok { s with ackOwed := true } := by
  rw [inboundData, if_neg hne, if_pos hseen]

/-- Settles O43: a number already seen never stalls, so the frame is taken off the ring, and R82's second case only owes
an ACK. -/
theorem duplicateIsAcknowledgedOnly : Obligations.DuplicateIsAcknowledgedOnly := by
  intro own ackn p s hi hidle hlo hhi hne hseen
  have hdata := receiveUnit_data (ackn := ackn) hi hidle hlo hhi (fun _ hnew => absurd hseen hnew)
    (inboundData_duplicate hne (by rwa [frameTaken_seqLastSeen]))
  refine ⟨_, runOutcome_eq_next.2 hdata, ?_⟩
  rw [frameTaken, withChecksum_length, dataBody_length]

/-! ## The ACK frame on the line -/

/-- `ack_buf` with the ACK of the number last seen (R67, R88). -/
def ackFrame (P : Params) (s : State) : Memory := memWriteBytes s.ackBuf 0 (encodeAck P s.seqLastSeen)

/-- The state with `n` bytes of that frame sent (R88). -/
def ackUnderWay (P : Params) (n : Nat) (s : State) : State :=
  { s with
    ackBuf := ackFrame P s
    txSrc := .ack
    txIdx := BitVec.ofNat 8 n
    ackOwed := false
    out := s.out ++ memReadBytes (ackFrame P s) 0 n }

/-- The state with that frame sent and the line free again (R88). -/
def ackSent (P : Params) (s : State) : State := { ackUnderWay P 3 s with txSrc := .idle, txIdx := 0#8 }

theorem ackSent_out (hwf : s.ackBuf.wf) : (ackSent P s).out = s.out ++ encodeAck P s.seqLastSeen :=
  congrArg (s.out ++ ·) (memReadBytes_memWriteBytes hwf 0 (encodeAck P s.seqLastSeen))

theorem memReadBytes_succ (m : Memory) (k n : Nat) :
    memReadBytes m k (n + 1) = memReadBytes m k n ++ [memRead m (k + n)] := by
  simp [memReadBytes, List.range_succ]

/-- The state with one byte more sent. -/
theorem ackUnderWay_succ (P : Params) (n : Nat) (s : State) :
    ackUnderWay P (n + 1) s =
      respond [memRead (ackFrame P s) n] { ackUnderWay P n s with txIdx := BitVec.ofNat 8 (n + 1) } := by
  rw [ackUnderWay, memReadBytes_succ, Nat.zero_add, ← List.append_assoc]
  rfl

/-- TX_BYTE sends the byte of the ACK frame at `tx_idx`, and the third one ends the frame (R88). -/
theorem txEmit_ackUnderWay {n : Nat} (hn : n < 3) :
    txEmit P (ackUnderWay P n s) = .ok (if n = 2 then ackSent P s else ackUnderWay P (n + 1) s) := by
  have hidx : (ackUnderWay P n s).txIdx.toNat = n :=
    (BitVec.toNat_ofNat n 8).trans (Nat.mod_eq_of_lt (by omega))
  refine txEmit_eq_ok.2 ?_
  rw [if_neg (show (ackUnderWay P n s).txSrc ≠ .data from TxSrc.noConfusion), hidx]
  refine ⟨hn, ?_⟩
  interval_cases n
  · exact ackUnderWay_succ P 0 s
  · exact ackUnderWay_succ P 1 s
  · exact congrArg (fun u => { u with txSrc := .idle, txIdx := 0#8 }) (ackUnderWay_succ P 2 s)

theorem startAck_eq_ackUnderWay (P : Params) (s : State) : startAck P s = .ok (ackUnderWay P 0 s) := by
  have hnone : s.out ++ memReadBytes (ackFrame P s) 0 0 = s.out := List.append_nil _
  rw [startAck_eq, ackUnderWay, hnone]
  rfl

/-- With no data frame due, an owed ACK starts: its frame is put into `ack_buf`, and the first byte goes out (R88). -/
theorem txByteWith_starts_ack (hsrc : s.txSrc = .idle) (hdue : s.txDue = false) (howed : s.ackOwed = true) :
    txByteWith P s = .ok (ackUnderWay P 1 s) := by
  have hstart : txByteWith P s = startAck P s >>= txEmit P := by simp [txByteWith, hsrc, hdue, howed]
  rw [hstart, startAck_eq_ackUnderWay, run_ok_bind]
  exact txEmit_ackUnderWay (by decide)

theorem exec_txByte (h : txByteWith Config.params s = .ok t) : exec .txByte s = .next t := runOutcome_eq_next.2 h

/-- Three TX_BYTEs on a free line send the owed ACK (R88). -/
theorem execAll_sends_ack (hsrc : s.txSrc = .idle) (hdue : s.txDue = false) (howed : s.ackOwed = true) :
    execAll (asmTx 3) s = .next (ackSent Config.params s) := by
  have hfirst := exec_txByte (txByteWith_starts_ack hsrc hdue howed)
  have hsecond : exec .txByte (ackUnderWay Config.params 1 s) = .next (ackUnderWay Config.params 2 s) :=
    exec_txByte (txEmit_ackUnderWay (by decide))
  have hthird : exec .txByte (ackUnderWay Config.params 2 s) = .next (ackSent Config.params s) :=
    exec_txByte (txEmit_ackUnderWay (by decide))
  exact (execAll_cons hfirst _).trans ((execAll_cons hsecond _).trans ((execAll_singleton _ _).trans hthird))

/-! ## A frame retransmitted after a DRAIN -/

@[simp] theorem inboundAck_out (a : Nibble) (s : State) : (inboundAck a s).out = s.out := by
  rw [inboundAck_frame]

@[simp] theorem inboundAck_txSrc (a : Nibble) (s : State) : (inboundAck a s).txSrc = s.txSrc := by
  rw [inboundAck_frame]

@[simp] theorem inboundAck_msgFromBricklet (a : Nibble) (s : State) :
    (inboundAck a s).msgFromBricklet = s.msgFromBricklet := by
  rw [inboundAck_frame]

/-- An ACK nibble makes no data frame due (R80, R81). -/
theorem inboundAck_not_due (a : Nibble) (hdue : s.txDue = false) : (inboundAck a s).txDue = false := by
  rcases inboundAck_cases a s with ⟨-, e⟩ | ⟨-, -, -, -, e⟩ | ⟨-, -, -, -, e⟩ <;> rw [e]
  · exact hdue
  · exact hdue
  · rfl

/-- The wire unit of the data frame with the checksum of its bytes (R54). -/
def dataUnit (own ackn : Nibble) (p : List Byte) : Instr :=
  .wData own ackn p (Config.params.cs (dataBody p own ackn))

/-- From `s` the block has taken in one payload, numbered `own`, and handed it over: the scanner is at rest, the mailbox
empty, and one message more is counted (R82, R99, R104). -/
structure HandedOver (own : Nibble) (s t : State) : Prop where
  inv : Inv Config.params t
  idle : RingIdle t
  empty : t.slotRxLen = 0#8
  counted : t.msgFromBricklet = satInc s.msgFromBricklet
  seen : t.seqLastSeen = own

/-- A new frame, then a DRAIN: the payload comes out, and its ACK is owed (R82, R104). -/
theorem exec_dataUnit_drain (ackn : Nibble) (hi : Inv Config.params s) (hidle : RingIdle s)
    (hp : FitsFrame Config.params p) (htake : CanTake own s) :
    ∃ t u, (exec (dataUnit own ackn p) s = .next t ∧ exec .drain t = .next u)
      ∧ HandedOver own s u ∧ u.out = s.out ++ BitVec.ofNat 8 p.length :: p ∧ u.ackOwed = true
      ∧ u.txSrc = s.txSrc ∧ (s.txDue = false → u.txDue = false) := by
  obtain ⟨t, hexec, ht, -, hpayload, -⟩ :=
    newDataIsDelivered own ackn p s hi hidle hp.min_le hp.le_max htake.own_ne htake.new htake.empty
  have hidleT : RingIdle t := by rw [ht]; exact inboundAck_ringIdle ackn hidle
  have hholds : HoldsPayload Config.params own p (unread Config.params t) t :=
    ⟨rfl, by rw [ht], hpayload, by rw [ht], by rw [ht]⟩
  have hdrain := exec_drain (hholds.drain hp)
  refine ⟨t, _, ⟨hexec, hdrain⟩, ⟨exec_inv (exec_inv hi hexec) hdrain, hidleT, rfl, ?_, hholds.seqLastSeen⟩, ?_,
    hholds.ackOwed, ?_, fun hdue => ?_⟩
  · rw [respond_msgFromBricklet, emptySlotRx_msgFromBricklet, ht]
  · rw [respond_out, emptySlotRx_out, ht]
    exact congrArg (· ++ _) (inboundAck_out ackn s)
  · rw [respond_txSrc, emptySlotRx_txSrc, ht]
    exact inboundAck_txSrc ackn s
  · rw [respond_txDue, emptySlotRx_txDue, ht]
    exact inboundAck_not_due ackn hdue

/-- The same frame again, whatever its ACK nibble: nothing is delivered, and an ACK is owed (R82, R84). -/
theorem HandedOver.exec_dataUnit (h : HandedOver own s t) (ackn : Nibble) (hp : FitsFrame Config.params p)
    (hne : own ≠ 0#4) :
    ∃ u, exec (dataUnit own ackn p) t = .next u
      ∧ u.ackOwed = true ∧ u.out = t.out ∧ u.slotRxLen = 0#8
      ∧ u.msgFromBricklet = satInc s.msgFromBricklet ∧ u.seqLastSeen = own := by
  obtain ⟨u, hexec, hu⟩ :=
    duplicateIsAcknowledgedOnly own ackn p t h.inv h.idle hp.min_le hp.le_max hne h.seen.symm
  refine ⟨u, hexec, ?_, ?_, ?_, ?_, ?_⟩ <;> rw [hu]
  · exact inboundAck_out ackn t
  · exact (inboundAck_slotRxLen ackn t).trans h.empty
  · exact (inboundAck_msgFromBricklet ackn t).trans h.counted
  · exact (inboundAck_seqLastSeen ackn t).trans h.seen

theorem execAll_inv {is : List Instr} (hi : Inv Config.params s) (h : execAll is s = .next t) :
    Inv Config.params t := by
  induction is generalizing s with
  | nil => exact Host.Outcome.next.inj h ▸ hi
  | cons i is ih =>
    rw [execAll] at h
    split at h
    · next u hu => exact ih (exec_inv hi hu) h
    · cases h
    · cases h

/-- Sending the ACK touches nothing of what was received (R88). -/
theorem HandedOver.ackSent (h : HandedOver own s t) (hsent : execAll (asmTx 3) t = .next (ackSent Config.params t)) :
    HandedOver own s (ackSent Config.params t) :=
  ⟨execAll_inv h.inv hsent, h.idle, h.empty, h.counted, h.seen⟩

/-- Settles O47: the first copy's number is the one last seen when the second copy comes, so that copy is a duplicate,
whether the first one's ACK has been sent or not. -/
theorem retransmissionNotDeliveredTwice : Obligations.RetransmissionNotDeliveredTwice := by
  intro own ackn ackn' p s hi hidle hlo hhi hne hnew hempty
  have hp : FitsFrame Config.params p := ⟨hlo, hhi⟩
  obtain ⟨t, u, ⟨hdata, hdrain⟩, hover, hout, howed, hsrc, hdue⟩ :=
    exec_dataUnit_drain ackn hi hidle hp ⟨hne, hnew, hempty⟩
  constructor
  · obtain ⟨v, hexec, hvowed, hvout, hvempty, hvcounted, hvseen⟩ := hover.exec_dataUnit ackn' hp hne
    exact ⟨v, (execAll_cons hdata _).trans ((execAll_cons hdrain _).trans ((execAll_singleton _ _).trans hexec)),
      hvout.trans hout, hvempty, hvcounted, hvseen, hvowed⟩
  · intro hfree hnotDue
    have hsent := execAll_sends_ack (hsrc.trans hfree) (hdue hnotDue) howed
    obtain ⟨v, hexec, hv⟩ := (hover.ackSent hsent).exec_dataUnit ackn' hp hne
    refine ⟨_, v, (execAll_cons hdata _).trans ((execAll_cons hdrain _).trans hsent), ?_, rfl, rfl, hexec, hv⟩
    rw [ackSent_out (hover.inv.mem_wf .ackBuf), hout, hover.seen]
    rfl

end Sys2Proof.Machine
end

section
/-! TX_BYTE (43_send_engine.md R88): what one byte of a frame under way does, then a due data frame from its first byte
to its last. -/

namespace Sys2Proof.Machine

variable {P : Params} {s : State}

/-! ## Bytes of an area -/

theorem memReadBytes_add (m : Memory) (k i j : Nat) :
    memReadBytes m k (i + j) = memReadBytes m k i ++ memReadBytes m (k + i) j := by
  simp [memReadBytes, List.range_add, Nat.add_assoc]

theorem memReadBytes_congr {m m' : Memory} {k n : Nat} (h : ∀ i, i < n → memRead m (k + i) = memRead m' (k + i)) :
    memReadBytes m k n = memReadBytes m' k n :=
  List.map_congr_left fun i hi => h i (List.mem_range.1 hi)

/-- A byte written behind the first `n` is read last. -/
theorem memReadBytes_memWrite_last {m : Memory} (hwf : m.wf) (n : Nat) (b : Byte) :
    memReadBytes (memWrite m n b) 0 (n + 1) = memReadBytes m 0 n ++ [b] := by
  rw [memReadBytes_succ, Nat.zero_add, memRead_memWrite_same hwf,
    memReadBytes_congr fun i hi => memRead_memWrite_other m (by omega) b]

/-! ## The refreshed frame -/

/-- LEN, SEQ with the numbers of the moment, and payload of the frame in the send buffer (R54, R88). -/
def refreshedBody (s : State) : List Byte :=
  memRead s.sendBuf 0 :: seqByte s.seqCur s.seqLastSeen :: memReadBytes s.sendBuf 2 (s.sendLen.toNat - 3)

/-- With its sequence byte refreshed the send buffer holds the body (R88). -/
theorem memReadBytes_seqRefreshed (hwf : s.sendBuf.wf) (h3 : 3 ≤ s.sendLen.toNat) :
    memReadBytes (memWrite s.sendBuf 1 (seqByte s.seqCur s.seqLastSeen)) 0 (s.sendLen.toNat - 1) = refreshedBody s := by
  have hfirst : memReadBytes (memWrite s.sendBuf 1 (seqByte s.seqCur s.seqLastSeen)) 0 (1 + 1) =
      memReadBytes s.sendBuf 0 1 ++ [seqByte s.seqCur s.seqLastSeen] := memReadBytes_memWrite_last hwf 1 _
  rw [show s.sendLen.toNat - 1 = (1 + 1) + (s.sendLen.toNat - 3) by omega, memReadBytes_add, hfirst,
    memReadBytes_congr fun i _ => memRead_memWrite_other s.sendBuf (by omega) _]
  rfl

/-- The frame that a data frame's start leaves in the send buffer: the body and its checksum (R88). -/
theorem memReadBytes_refreshedSendBuf (hwf : s.sendBuf.wf) (h3 : 3 ≤ s.sendLen.toNat) :
    memReadBytes (refreshedSendBuf P s) 0 s.sendLen.toNat = withChecksum P (refreshedBody s) := by
  have hlast := memReadBytes_memWrite_last (memWrite_wf hwf 1 (seqByte s.seqCur s.seqLastSeen)) (s.sendLen.toNat - 1)
    (P.cs (refreshedBody s))
  rw [Nat.sub_add_cancel (by omega), memReadBytes_seqRefreshed hwf h3] at hlast
  rw [refreshedSendBuf, memReadBytes_seqRefreshed hwf h3, hlast, withChecksum]

theorem memRead_refreshedSendBuf_other {j : Nat} (hseq : j ≠ 1) (hchk : j ≠ s.sendLen.toNat - 1) :
    memRead (refreshedSendBuf P s) j = memRead s.sendBuf j := by
  rw [refreshedSendBuf, memRead_memWrite_other _ hchk, memRead_memWrite_other _ hseq]

/-! ## The index moves on -/

/-- The byte at the index is the frame's last one exactly when the numbers say so. -/
theorem succ_eq_iff_toNat {i n : Byte} (h : i.toNat < n.toNat) : i + 1#8 = n ↔ i.toNat + 1 = n.toNat := by
  bv_omega

theorem txAdvance_inside {n : Byte} (hidx : s.txIdx.toNat < n.toNat) (hin : s.txIdx.toNat + 1 ≠ n.toNat) :
    txAdvance n s = { s with txIdx := s.txIdx + 1#8 } :=
  if_neg fun e => hin ((succ_eq_iff_toNat hidx).1 e)

theorem txAdvance_last {n : Byte} (hidx : s.txIdx.toNat < n.toNat) (hlast : s.txIdx.toNat + 1 = n.toNat)
    (hkeep : ¬(s.txSrc = .data ∧ s.txRel = true)) : txAdvance n s = { s with txSrc := .idle, txIdx := 0#8 } :=
  (if_pos ((succ_eq_iff_toNat hidx).2 hlast)).trans (if_neg hkeep)

theorem txAdvance_releases {n : Byte} (hidx : s.txIdx.toNat < n.toNat) (hlast : s.txIdx.toNat + 1 = n.toNat)
    (hsrc : s.txSrc = .data) (hrel : s.txRel = true) :
    txAdvance n s = release { s with txSrc := .idle, txIdx := 0#8 } :=
  (if_pos ((succ_eq_iff_toNat hidx).2 hlast)).trans (if_pos ⟨hsrc, hrel⟩)

/-- A frame in the send buffer has at least one payload byte and fits its area (R36 item 3, R38). -/
theorem Inv.sendLen_bounds (hi : Inv P s) (hne : s.sendLen ≠ 0#8) :
    4 ≤ s.sendLen.toNat ∧ s.sendLen.toNat ≤ P.maxFrameLen := by
  obtain h0 | ⟨hlo, hhi⟩ := hi.sendLen_range
  · exact absurd h0 hne
  · have := P.min_pos
    rw [overhead] at hlo
    exact ⟨by omega, hhi⟩

theorem txByteWith_underWay (hsrc : s.txSrc ≠ .idle) : txByteWith P s = txEmit P s := by
  unfold txByteWith
  split
  · rfl
  · rfl
  · next h => exact absurd h hsrc

theorem txEmit_data (hsrc : s.txSrc = .data) (hidx : s.txIdx.toNat < P.maxFrameLen) :
    txEmit P s = .ok (respond [memRead s.sendBuf s.txIdx.toNat] (txAdvance s.sendLen s)) := by
  rw [txEmit_eq_ok, if_pos hsrc]
  exact ⟨hidx, rfl⟩

theorem txByteWith_data (hi : Inv P s) (hsrc : s.txSrc = .data) :
    txByteWith P s = .ok (respond [memRead s.sendBuf s.txIdx.toNat] (txAdvance s.sendLen s)) := by
  have hidx := hi.data_idx hsrc
  obtain ⟨hne, -⟩ := hi.data_sent hsrc
  obtain ⟨-, hmax⟩ := hi.sendLen_bounds hne
  rw [txByteWith_underWay (by rw [hsrc]; decide), txEmit_data hsrc (by omega)]

theorem txByteWith_ack (hi : Inv P s) (hsrc : s.txSrc = .ack) :
    txByteWith P s = .ok (respond [memRead s.ackBuf s.txIdx.toNat] (txAdvance 3#8 s)) := by
  have hne : s.txSrc ≠ .data := by rw [hsrc]; decide
  rw [txByteWith_underWay (by rw [hsrc]; decide), txEmit_eq_ok, if_neg hne]
  exact ⟨hi.ack_idx hsrc, rfl⟩

/-- Settles O16: by whether the byte is the frame's last, and then, in a data frame, by `tx_rel`. -/
theorem txByteContinuesFrame : Obligations.TxByteContinuesFrame := by
  intro s hi
  refine ⟨fun hsrc => ?_, fun hsrc => ?_⟩
  · have hidx := hi.data_idx hsrc
    rw [exec_txByte (txByteWith_data hi hsrc)]
    split
    · next hin => rw [txAdvance_inside hidx hin]; rfl
    · next hlast =>
      rw [ne_eq, not_not] at hlast
      split
      · next hrel => rw [txAdvance_last hidx hlast (by simp [hrel])]; rfl
      · next hrel => rw [txAdvance_releases hidx hlast hsrc (by simpa using hrel)]; rfl
  · have hidx : s.txIdx.toNat < (3#8).toNat := hi.ack_idx hsrc
    rw [exec_txByte (txByteWith_ack hi hsrc)]
    split
    · next hin => rw [txAdvance_inside hidx hin]; rfl
    · next hlast => rw [txAdvance_last hidx (not_not.1 hlast) (by simp [hsrc])]; rfl

/-! ## A free line -/

/-- Settles O13: the last of TX_BYTE's cases. -/
theorem txByteIdleFiller : Obligations.TxByteIdleFiller := by
  intro s hsrc hdue howed
  exact exec_txByte (by simp [txByteWith, hsrc, hdue, howed, respond])

/-- Settles O15: TX_BYTE puts the ACK frame of the number last seen into `ack_buf` and sends its first byte. -/
theorem txByteStartsAck : Obligations.TxByteStartsAck := by
  intro s hi hsrc hdue howed
  have hwf : s.ackBuf.wf := hi.mem_wf .ackBuf
  have hframe : memReadBytes (ackFrame Config.params s) 0 3 = encodeAck Config.params s.seqLastSeen :=
    memReadBytes_memWriteBytes hwf 0 _
  have hfirst : memReadBytes (ackFrame Config.params s) 0 1 = [0x03#8] := congrArg (List.take 1) hframe
  refine ⟨_, exec_txByte (txByteWith_starts_ack hsrc hdue howed), ?_, hframe, fun j hj => ?_⟩
  · rw [ackUnderWay, hfirst]
  · exact memRead_memWriteBytes_outside hwf (.inr hj)

/-! ## A due data frame -/

/-- The state with `n` bytes of the due data frame sent (R88). -/
def dataUnderWay (P : Params) (n : Nat) (s : State) : State :=
  { s with
    sendBuf := refreshedSendBuf P s
    txSrc := .data
    txIdx := BitVec.ofNat 8 n
    txDue := false
    txSent := true
    lastSend := s.nowReg
    ackOwed := false
    out := s.out ++ memReadBytes (refreshedSendBuf P s) 0 n }

/-- The state with that frame sent and the line free again (R88). -/
def dataSent (P : Params) (s : State) : State :=
  { dataUnderWay P s.sendLen.toNat s with txSrc := .idle, txIdx := 0#8 }

/-- The state with one byte more sent. -/
theorem dataUnderWay_succ (P : Params) (n : Nat) (s : State) :
    dataUnderWay P (n + 1) s =
      respond [memRead (refreshedSendBuf P s) n] { dataUnderWay P n s with txIdx := BitVec.ofNat 8 (n + 1) } := by
  rw [dataUnderWay, memReadBytes_succ, Nat.zero_add, ← List.append_assoc]
  rfl

/-- A data frame waits on a free line to be sent (R86, R87). -/
structure FrameDue (P : Params) (s : State) : Prop where
  idle : s.txSrc = .idle
  due : s.txDue = true
  unreleased : s.txRel = false
  wf : s.sendBuf.wf
  four_le : 4 ≤ s.sendLen.toNat
  le_max : s.sendLen.toNat ≤ P.maxFrameLen

theorem Inv.frameDue (hi : Inv P s) (hsrc : s.txSrc = .idle) (hdue : s.txDue = true) : FrameDue P s := by
  obtain ⟨hne, -⟩ := hi.due_waiting hdue
  obtain ⟨h4, hmax⟩ := hi.sendLen_bounds hne
  refine ⟨hsrc, hdue, ?_, hi.mem_wf .sendBuf, h4, hmax⟩
  by_contra hrel
  have hdata := hi.rel_data (by simpa using hrel)
  cases hsrc.symm.trans hdata

theorem startData_eq_dataUnderWay (h : FrameDue P s) : startData P s = .ok (dataUnderWay P 0 s) := by
  have hne : s.sendLen ≠ 0#8 := fun e => by have := h.four_le; simp [e] at this
  have hnone : s.out ++ memReadBytes (refreshedSendBuf P s) 0 0 = s.out := List.append_nil _
  rw [startData_eq_ok, dataUnderWay, hnone]
  exact ⟨hne, h.le_max, rfl⟩

/-- TX_BYTE sends the byte of the data frame at `tx_idx`, and the last one ends the frame (R88). -/
theorem txEmit_dataUnderWay {n : Nat} (h : FrameDue P s) (hn : n < s.sendLen.toNat) :
    txEmit P (dataUnderWay P n s) =
      .ok (if n + 1 = s.sendLen.toNat then dataSent P s else dataUnderWay P (n + 1) s) := by
  have hmax := h.le_max
  have hidx : (dataUnderWay P n s).txIdx.toNat = n := by
    have := s.sendLen.isLt
    exact (BitVec.toNat_ofNat n 8).trans (Nat.mod_eq_of_lt (by omega))
  have hlt : (dataUnderWay P n s).txIdx.toNat < s.sendLen.toNat := by rw [hidx]; exact hn
  have hrel : ¬((dataUnderWay P n s).txSrc = .data ∧ (dataUnderWay P n s).txRel = true) := by
    simp [dataUnderWay, h.unreleased]
  rw [txEmit_data (s := dataUnderWay P n s) rfl (by omega), hidx]
  refine congrArg Except.ok ?_
  show respond [memRead (refreshedSendBuf P s) n] (txAdvance s.sendLen (dataUnderWay P n s)) = _
  split
  · next hlast =>
    rw [txAdvance_last hlt (by rw [hidx]; exact hlast) hrel, dataSent, ← hlast, dataUnderWay_succ]
    rfl
  · next hin =>
    rw [txAdvance_inside hlt (by rw [hidx]; exact hin), dataUnderWay_succ,
      show (dataUnderWay P n s).txIdx + 1#8 = BitVec.ofNat 8 (n + 1) from (BitVec.ofNat_add n 1).symm]

/-- At a frame boundary a due data frame starts, and its first byte goes out (R88). -/
theorem txByteWith_starts_data (h : FrameDue P s) : txByteWith P s = .ok (dataUnderWay P 1 s) := by
  have h4 := h.four_le
  have hstart : txByteWith P s = startData P s >>= txEmit P := by simp [txByteWith, h.idle, h.due]
  rw [hstart, startData_eq_dataUnderWay h, run_ok_bind, txEmit_dataUnderWay h (by omega), if_neg (by omega)]

/-- Settles O14: TX_BYTE refreshes the frame in the send buffer and sends its first byte. -/
theorem txByteStartsData : Obligations.TxByteStartsData := by
  intro s hi hsrc hdue
  have hframe := hi.frameDue hsrc hdue
  have h4 := hframe.four_le
  have hfirst : memReadBytes (refreshedSendBuf Config.params s) 0 1 = [memRead s.sendBuf 0] :=
    congrArg (fun b => [b]) (memRead_refreshedSendBuf_other (j := 0) (by omega) (by omega))
  refine ⟨_, exec_txByte (txByteWith_starts_data hframe), ?_,
    memReadBytes_refreshedSendBuf hframe.wf (by omega), fun j => memRead_refreshedSendBuf_other⟩
  rw [dataUnderWay, hfirst]

theorem exec_txByte_dataUnderWay {n : Nat} (h : FrameDue Config.params s) (hn : n < s.sendLen.toNat) :
    exec .txByte (dataUnderWay Config.params n s) =
      .next (if n + 1 = s.sendLen.toNat then dataSent Config.params s else dataUnderWay Config.params (n + 1) s) :=
  exec_txByte ((txByteWith_underWay TxSrc.noConfusion).trans (txEmit_dataUnderWay h hn))

/-- The TX_BYTEs that are left of a data frame under way send the rest of it (R88). -/
theorem execAll_sends_rest (h : FrameDue Config.params s) {n k : Nat} (hn : n + (k + 1) = s.sendLen.toNat) :
    execAll (asmTx (k + 1)) (dataUnderWay Config.params n s) = .next (dataSent Config.params s) := by
  have hbyte := exec_txByte_dataUnderWay h (n := n) (by omega)
  induction k generalizing n with
  | zero => rw [if_pos hn] at hbyte; exact (execAll_singleton _ _).trans hbyte
  | succ k ih =>
    rw [if_neg (by omega)] at hbyte
    exact (execAll_cons hbyte _).trans (ih (by omega) (exec_txByte_dataUnderWay h (by omega)))

/-- As many TX_BYTEs as a due frame is long send it whole (R88). -/
theorem execAll_sends_data (h : FrameDue Config.params s) :
    execAll (asmTx s.sendLen.toNat) s = .next (dataSent Config.params s) := by
  obtain ⟨k, hk⟩ := Nat.exists_eq_add_of_le' h.four_le
  rw [hk]
  exact (execAll_cons (exec_txByte (txByteWith_starts_data h)) _).trans (execAll_sends_rest h (by omega))

/-- Settles O17: the first TX_BYTE refreshes the frame, the following ones send it on, and the last one frees the line.
-/
theorem dueFrameIsEmittedWhole : Obligations.DueFrameIsEmittedWhole := by
  intro s hi hsrc hdue
  have hframe := hi.frameDue hsrc hdue
  have h4 := hframe.four_le
  refine ⟨_, execAll_sends_data hframe, ?_, ?_⟩
  · exact congrArg (s.out ++ ·) (memReadBytes_refreshedSendBuf hframe.wf (by omega))
  · rw [dataSent, ← hsrc, ← hi.idle_idx hsrc]
    rfl

end Sys2Proof.Machine
end

section
/-! A message from SUBMIT to its first transmission (43_send_engine.md R85 to R88): SUBMIT takes it, a TICK frames it,
and the TX_BYTEs that follow send the frame. -/

namespace Sys2Proof.Machine

variable {P : Params} {s t u : State} {p : List Byte}

/-! ## SUBMIT -/

theorem exec_submit (h : submitWith Config.params p s = .ok t) : exec (.submit p) s = .next t := runOutcome_eq_next.2 h

/-- Settles O18: the three cases of SUBMIT, in the order of its tests. -/
theorem submitRule : Obligations.SubmitRule := by
  intro p s hi
  have hwf : s.slotTx.wf := hi.mem_wf .slotTx
  obtain ⟨t, h⟩ := submitWith_answers Config.params p s
  rw [exec_submit h]
  rcases submitWith_cases h with ⟨hlen, rfl⟩ | ⟨hlo, hhi, hbusy, rfl⟩ | ⟨hlo, hhi, hslot, hsend, rfl⟩
  · rw [if_pos hlen]
  · rw [if_neg (by omega), if_pos hbusy]
  · rw [if_neg (by omega), if_neg (by simp [hslot, hsend])]
    exact ⟨_, rfl, rfl, lengthByte_toNat hhi, memReadBytes_memWriteBytes hwf 0 p,
      fun j hj => memRead_memWriteBytes_outside hwf (.inr (by omega))⟩

/-! ## TICK after its scan -/

/-- BAUD_APPLY as an equation (R95). -/
theorem baudApply_eq (s : State) :
    baudApply s =
      { s with
        baudCurrent := if s.baudChange = true ∧ s.txSrc = .idle then s.baudNew else s.baudCurrent
        baudChange := if s.txSrc = .idle then false else s.baudChange } := by
  rcases baudApply_cases s with ⟨hchange, hidle, e⟩ | ⟨hnot, e⟩ <;> rw [e]
  · rw [if_pos ⟨hchange, hidle⟩, if_pos hidle]
  · have hkept : (if s.txSrc = .idle then false else s.baudChange) = s.baudChange := by
      split
      · next hidle => exact (by simpa [hidle] using hnot : s.baudChange = false).symm
      · rfl
    rw [if_neg hnot, hkept]

theorem tickWith_of_parts {now : Word} (hscan : scan P { s with nowReg := now } = .ok u)
    (hrest : frameOrTimer P u = .ok t) : tickWith P now s = .ok (baudApply t) := by
  rw [tickWith_eq, hscan, run_ok_bind, hrest]
  rfl

/-- A waiting message has a length that SUBMIT takes (R36 item 2). -/
theorem Inv.slotTxLen_bounds (hi : Inv P s) (hslot : s.slotTxLen ≠ 0#8) :
    P.minMsgLen ≤ s.slotTxLen.toNat ∧ s.slotTxLen.toNat ≤ P.maxMsgLen := by
  obtain h0 | hrange := hi.slotTxLen_range
  · exact absurd h0 hslot
  · exact hrange

/-- The length of the frame made of a waiting message (R86). -/
theorem Inv.slotTxLen_add_three (hi : Inv P s) (hslot : s.slotTxLen ≠ 0#8) :
    (s.slotTxLen + 3#8).toNat = s.slotTxLen.toNat + 3 := by
  obtain ⟨-, hhi⟩ := hi.slotTxLen_bounds hslot
  have := P.max_le
  rw [BitVec.toNat_add]
  exact Nat.mod_eq_of_lt (by show s.slotTxLen.toNat + 3 < 256; omega)

/-- The frame that FRAME_FROM_SLOT puts into the send buffer (R86). -/
def framedMessage (P : Params) (s : State) : List Byte :=
  withChecksum P (dataBody (slotTxPayload s) s.seqCur s.seqLastSeen)

@[simp] theorem framedMessage_length (P : Params) (s : State) : (framedMessage P s).length = s.slotTxLen.toNat + 3 := by
  simp [framedMessage]

/-- FRAME_FROM_SLOT answers in every state of the invariant in which a message waits (R86). -/
theorem frameFromSlot_eq (hi : Inv P s) (hslot : s.slotTxLen ≠ 0#8) :
    frameFromSlot P s = .ok
      { s with
        sendBuf := memWriteBytes s.sendBuf 0 (framedMessage P s)
        slotTx := memWriteBytes s.slotTx 0 (staleBytes P s.slotTxLen.toNat s)
        sendLen := s.slotTxLen + 3#8
        slotTxLen := 0#8
        txSent := false
        txRel := false
        txDue := true
        staleUsed := s.staleUsed + s.slotTxLen.toNat } := by
  obtain ⟨hlo, hhi⟩ := hi.slotTxLen_bounds hslot
  exact frameFromSlot_eq_ok.2 ⟨⟨hlo, hhi, hi.seqCur_pos⟩, rfl⟩

/-- What a TICK's scan leaves is a state of the invariant (R36, R102). -/
theorem tickScan_inv {now : Word} (hi : Inv P s) (hscan : scan P { s with nowReg := now } = .ok u) : Inv P u :=
  (scan_r36 (withNowReg_inv now hi) hscan).toInv

/-- Settles O28: what the scan left is framed, and BAUD_APPLY touches nothing of the frame. -/
theorem tickFramesMessage : Obligations.TickFramesMessage := by
  intro now s u hi hscan hsend hslot
  have hu := tickScan_inv hi hscan
  have hrest : frameOrTimer Config.params u = frameFromSlot Config.params u := if_pos ⟨hsend, hslot⟩
  have hwf : u.sendBuf.wf := hu.mem_wf .sendBuf
  have hframe := memReadBytes_memWriteBytes hwf 0 (framedMessage Config.params u)
  rw [framedMessage_length] at hframe
  refine ⟨_, exec_tick (tickWith_of_parts hscan (hrest.trans (frameFromSlot_eq hu hslot))), ?_⟩
  rw [baudApply_eq]
  refine ⟨rfl, hu.slotTxLen_add_three hslot, ?_, fun j hj => ?_, fun j hj => ?_⟩
  · rw [hframe, framedMessage, dataBody, slotTxPayload_length]
    rfl
  · exact memRead_memWriteBytes_outside hwf (.inr (by simpa using hj))
  · exact memRead_memWriteBytes_outside (hu.mem_wf .slotTx) (.inr (by simpa using hj))

/-- The elapsed time in numbers (R11, R87). -/
theorem elapsed_toNat (s : State) :
    (elapsed s).toNat = (s.nowReg.toNat + 2 ^ 32 - s.lastSend.toNat) % 2 ^ 32 := by
  have := s.lastSend.isLt
  rw [elapsed, BitVec.toNat_sub]
  congr 1
  omega

/-- RETX_TIMER as an equation (R87). -/
theorem retxTimer_eq (P : Params) (s : State) :
    retxTimer P s =
      { s with
        txDue := s.txDue || decide (s.sendLen ≠ 0#8 ∧ s.txSent = true ∧ s.txSrc ≠ .data
          ∧ P.txTimeoutMs ≤ (elapsed s).toNat) } := by
  rcases retxTimer_cases P s with ⟨hsend, hsent, hdue, hsrc, htime, e⟩ | ⟨hnot, e⟩ <;> rw [e]
  · simp [hsend, hsent, hsrc, htime]
  · cases hdue : s.txDue with
    | true => rw [Bool.true_or, ← hdue]
    | false =>
      have hidle : ¬(s.sendLen ≠ 0#8 ∧ s.txSent = true ∧ s.txSrc ≠ .data ∧ P.txTimeoutMs ≤ (elapsed s).toNat) :=
        fun ⟨hsend, hsent, hsrc, htime⟩ => hnot ⟨hsend, hsent, hdue, hsrc, htime⟩
      rw [decide_eq_false hidle, Bool.or_false, ← hdue]

/-- Settles O29: with nothing to frame the timer runs on what the scan left, and the scan left the latched clock. -/
theorem tickRunsTimer : Obligations.TickRunsTimer := by
  intro now s u hi hscan hnone
  have hnow : u.nowReg = now := (scanKeeps_of_scan (withNowReg_inv now hi).scanInv hscan).nowReg
  have hrest : frameOrTimer Config.params u = .ok (retxTimer Config.params u) := if_neg hnone
  rw [exec_tick (tickWith_of_parts hscan hrest), baudApply_eq, retxTimer_eq, elapsed_toNat, hnow]

/-! ## From SUBMIT to the line -/

/-- The bytes of an area that holds a frame with `n` payload bytes (R54). -/
theorem memReadBytes_frame (m : Memory) (n : Nat) :
    memReadBytes m 0 (n + 3) = memRead m 0 :: memRead m 1 :: memReadBytes m 2 n ++ [memRead m (n + 2)] := by
  rw [memReadBytes_succ, Nat.zero_add, Nat.add_comm n 2, memReadBytes_add]
  rfl

/-- A frame whose numbers are those of the moment stays as it is when it is refreshed (R88). -/
theorem refreshedBody_of_frame {len : Byte} (hlen : s.sendLen.toNat = p.length + 3)
    (h : memReadBytes s.sendBuf 0 (p.length + 3) = withChecksum P (len :: seqByte s.seqCur s.seqLastSeen :: p)) :
    refreshedBody s = len :: seqByte s.seqCur s.seqLastSeen :: p := by
  obtain ⟨hbody, -⟩ := List.append_inj' ((memReadBytes_frame _ _).symm.trans h) rfl
  obtain ⟨hfirst, -, hpayload⟩ : memRead s.sendBuf 0 = len ∧ memRead s.sendBuf 1 = seqByte s.seqCur s.seqLastSeen
      ∧ memReadBytes s.sendBuf 2 p.length = p := by simpa using hbody
  rw [refreshedBody, hlen, Nat.add_sub_cancel, hfirst, hpayload]

/-- SUBMIT takes a payload that fits a frame while no message is in flight (R85). -/
theorem exec_submit_taken (hi : Inv Config.params s) (hp : FitsFrame Config.params p) (hslot : s.slotTxLen = 0#8)
    (hsend : s.sendLen = 0#8) :
    ∃ t, exec (.submit p) s = .next t
      ∧ t = { s with
              slotTx := t.slotTx
              slotTxLen := BitVec.ofNat 8 p.length
              msgFromBrick := satInc s.msgFromBrick
              out := s.out ++ [0#8] }
      ∧ t.slotTxLen.toNat = p.length ∧ memReadBytes t.slotTx 0 p.length = p := by
  have hrule := submitRule p s hi
  have hlo := hp.min_le
  have hhi := hp.le_max
  rw [if_neg (by omega), if_neg (by simp [hslot, hsend])] at hrule
  obtain ⟨t, hexec, ht, hlen, hpayload, -⟩ := hrule
  exact ⟨t, hexec, ht, hlen, hpayload⟩

/-- A TICK of a block at rest frames the waiting message with the numbers it finds (R86). -/
theorem exec_tick_frames (now : Word) (hi : Inv Config.params s) (hidle : RingIdle s) (hsend : s.sendLen = 0#8)
    (hlen : s.slotTxLen.toNat = p.length) (hpos : 0 < p.length) (hp : memReadBytes s.slotTx 0 p.length = p) :
    ∃ t, exec (.tick now) s = .next t ∧ t.sendLen.toNat = p.length + 3 ∧ t.slotTxLen = 0#8 ∧ t.txDue = true
      ∧ t.txSrc = s.txSrc ∧ t.seqCur = s.seqCur ∧ t.nowReg = now ∧ t.out = s.out
      ∧ refreshedBody t = BitVec.ofNat 8 (p.length + 3) :: seqByte s.seqCur s.seqLastSeen :: p := by
  have hslot : s.slotTxLen ≠ 0#8 := fun e => by rw [e, BitVec.toNat_zero] at hlen; omega
  have hscan : scan Config.params { s with nowReg := now } = .ok { s with nowReg := now } := scan_ringIdle hidle
  obtain ⟨t, hexec, ht, htlen, hframe, -⟩ := tickFramesMessage now s _ hi hscan hsend hslot
  have hseq : t.seqCur = s.seqCur ∧ t.seqLastSeen = s.seqLastSeen := by rw [ht]; exact ⟨rfl, rfl⟩
  obtain ⟨hcur, hseen⟩ := hseq
  rw [hlen] at htlen
  simp only [hlen, hp, ← hcur, ← hseen] at hframe
  have hbody : refreshedBody t = BitVec.ofNat 8 (p.length + 3) :: seqByte s.seqCur s.seqLastSeen :: p := by
    rw [← hcur, ← hseen]
    exact refreshedBody_of_frame htlen hframe
  exact ⟨t, hexec, htlen, by rw [ht], by rw [ht], by rw [ht], hcur, by rw [ht], by rw [ht], hbody⟩

/-- Settles O19: SUBMIT's payload is what the TICK frames, and the frame's numbers are still those of the moment when
the TX_BYTEs send it. -/
theorem submittedMessageIsTransmitted : Obligations.SubmittedMessageIsTransmitted := by
  intro p now s hi hidle hsrc hslot hsend hlo hhi
  have hpos : 0 < p.length := Nat.lt_of_lt_of_le Config.params.min_pos hlo
  obtain ⟨u, hsubmit, hu, hulen, hupayload⟩ := exec_submit_taken hi ⟨hlo, hhi⟩ hslot hsend
  have hui := exec_inv hi hsubmit
  have huidle : RingIdle u := by rw [hu]; exact hidle
  obtain ⟨v, htick, hvlen, hvslot, hvdue, hvsrc, hvseq, hvnow, hvout, hvbody⟩ :=
    exec_tick_frames now hui huidle (by rw [hu]; exact hsend) hulen hpos hupayload
  have hfree : v.txSrc = .idle := by rw [hvsrc, hu]; exact hsrc
  obtain ⟨t, hsend, hout, ht⟩ := dueFrameIsEmittedWhole v (exec_inv hui htick) hfree hvdue
  rw [hvlen] at hsend
  refine ⟨t, (execAll_cons hsubmit _).trans ((execAll_cons htick _).trans hsend), ?_, ?_⟩
  · calc t.out = u.out ++ withChecksum Config.params (refreshedBody v) := hvout ▸ hout
      _ = _ := by rw [hvbody, hu]; exact List.append_assoc s.out _ _
  · rw [ht]
    exact ⟨hvlen, hvslot, hfree, rfl, rfl, rfl, hvseq.trans (by rw [hu]), hvnow⟩

end Sys2Proof.Machine
end

section
/-! What ends a message in flight (43_send_engine.md R90): framing moves it on, and a release with its ACK ends it,
found by a scan or by the frame's last TX_BYTE. -/

namespace Sys2Proof.Machine

variable {P : Params} {s t u : State} {i : Instr} {kind : FrameKind} {sq : Byte} {tail bytes bytes' : List Byte}

/-! ## The ACK a scan finds -/

theorem AckStandsIn.of_suffix {a : Nibble} (h : AckStandsIn P a bytes') (hsuffix : bytes' <:+ bytes) :
    AckStandsIn P a bytes := by
  obtain ⟨skipped, rfl⟩ := hsuffix
  obtain ⟨pre, len, rest, rfl, hdecode⟩ := h
  exact ⟨skipped ++ pre, len, rest, (List.append_assoc _ _ _).symm, hdecode⟩

theorem ringBytes_eq_take {n : Nat} (hn : n ≤ s.rbUsed) : ringBytes P n s = (unread P s).take n := by
  rw [unread, ringBytes, ringBytes, ← List.map_take, List.take_range, Nat.min_eq_left hn]

/-- Once `n` unread bytes are dropped, the later ones are left (R40). -/
theorem unread_suffix {n : Nat} (hn : n ≤ s.rbUsed) (hrb : t.rb = s.rb) (hhead : t.rbHead = (s.rbHead + n) % P.rbSize)
    (hused : t.rbUsed = s.rbUsed - n) : unread P t <:+ unread P s := by
  have hdrop : unread P t = (unread P s).drop n := by
    rw [← unread_drop (rbDrop_eq_ok (P := P).2 ⟨hn, rfl⟩)]
    exact unread_congr hrb hhead hused
  exact hdrop ▸ List.drop_suffix n _

theorem ScanInv.exists_candidate (hi : ScanInv P s) (hrx : s.rxState = .frameComplete) :
    ∃ kind sq tail, Candidate P kind sq tail s := by
  obtain ⟨-, -, hclass⟩ := hi.receive.candidate (by rw [hrx]; decide)
  obtain ⟨kind, hkind⟩ := exists_kind hclass
  obtain ⟨sq, tail, hbytes, hlen⟩ := ringBytes_candidate hi.receive hrx
  exact ⟨kind, sq, tail, (hi.side.areas .scratch).1, hi.receive.complete_used hrx, hkind, hbytes, hlen⟩

/-- A candidate with the checksum of its bytes is a valid frame that stands first among the unread bytes (R68). -/
theorem Candidate.ackStandsIn (h : Candidate P kind sq tail s) (hgood : ChecksumValid P (s.rxLen :: sq :: tail)) :
    AckStandsIn P (seqAckn sq) (unread P s) := by
  have hunread : unread P s = s.rxLen :: (sq :: tail ++ (unread P s).drop s.rxLen.toNat) := by
    conv_lhs => rw [← List.take_append_drop s.rxLen.toNat (unread P s), ← ringBytes_eq_take h.used, h.bytes]
    rfl
  have hdecode := (decodeFrame_of_complete (f := sq :: tail) ((unread P s).drop s.rxLen.toNat) h.rxClass h.length).trans
    (decodeComplete_of_valid hgood)
  refine ⟨[], _, _, hunread, ?_⟩
  cases kind with
  | ack => exact .inl hdecode
  | data => exact .inr ⟨_, _, hdecode⟩

/-- A pass that goes on with a candidate has skipped a byte, or consumed a frame with the checksum of its bytes (R75).
-/
theorem Candidate.progress_cases (h : Candidate P kind sq tail s) (hstep : stepComplete P s = .ok (.progress t)) :
    t = byteSkipped P kind (candidateState P s)
    ∨ ChecksumValid P (s.rxLen :: sq :: tail)
      ∧ ∃ u, consume P s.rxLen sq tail (candidateState P s) = .ok u ∧ t = seekAgain u := by
  by_cases hgood : ChecksumValid P (s.rxLen :: sq :: tail)
  · rw [h.stepComplete_eq.trans (if_neg (not_not.2 hgood))] at hstep
    split at hstep
    · cases hstep
    · obtain ⟨u, hu, e⟩ := run_map_eq_ok.1 hstep
      exact .inr ⟨hgood, u, hu, (ScanProgress.progress.inj e).symm⟩
  · exact .inl (ScanProgress.progress.inj (Except.ok.inj (hstep.symm.trans (h.stepComplete_invalid hgood))))

/-! ## What a scan does to a message -/

/-- The message in flight, whether it has been sent, what is on the line and the number are as before. -/
structure MessageKept (s t : State) : Prop where
  slotTxLen : t.slotTxLen = s.slotTxLen
  sendLen : t.sendLen = s.sendLen
  txSent : t.txSent = s.txSent
  txSrc : t.txSrc = s.txSrc
  seqCur : t.seqCur = s.seqCur

/-- A frame sent, and not on the line, was released by its ACK, which stands in `bytes` (R80, R81). -/
structure ReleasedByAck (P : Params) (bytes : List Byte) (s t : State) : Prop where
  waiting : s.sendLen ≠ 0#8
  sent : s.txSent = true
  notOnLine : s.txSrc ≠ .data
  acked : AckStandsIn P s.seqCur bytes
  slotTxLen : t.slotTxLen = s.slotTxLen
  sendLen : t.sendLen = 0#8
  seqCur : t.seqCur = nextSeq s.seqCur

/-- What reading `bytes` can do to a message (R76, R80). -/
def AckEffect (P : Params) (bytes : List Byte) (s t : State) : Prop := MessageKept s t ∨ ReleasedByAck P bytes s t

theorem MessageKept.refl (s : State) : MessageKept s s := ⟨rfl, rfl, rfl, rfl, rfl⟩

theorem MessageKept.trans (h₁ : MessageKept s t) (h₂ : MessageKept t u) : MessageKept s u where
  slotTxLen := h₂.slotTxLen.trans h₁.slotTxLen
  sendLen := h₂.sendLen.trans h₁.sendLen
  txSent := h₂.txSent.trans h₁.txSent
  txSrc := h₂.txSrc.trans h₁.txSrc
  seqCur := h₂.seqCur.trans h₁.seqCur

theorem MessageKept.trans_released (h₁ : MessageKept s t) (h₂ : ReleasedByAck P bytes t u) :
    ReleasedByAck P bytes s u where
  waiting := h₁.sendLen ▸ h₂.waiting
  sent := h₁.txSent ▸ h₂.sent
  notOnLine := h₁.txSrc ▸ h₂.notOnLine
  acked := h₁.seqCur ▸ h₂.acked
  slotTxLen := h₂.slotTxLen.trans h₁.slotTxLen
  sendLen := h₂.sendLen
  seqCur := h₁.seqCur ▸ h₂.seqCur

theorem ReleasedByAck.trans_kept (h₁ : ReleasedByAck P bytes s t) (h₂ : MessageKept t u) :
    ReleasedByAck P bytes s u :=
  { h₁ with
    slotTxLen := h₂.slotTxLen.trans h₁.slotTxLen
    sendLen := h₂.sendLen.trans h₁.sendLen
    seqCur := h₂.seqCur.trans h₁.seqCur }

/-- Of two readings one after the other at most one releases: after a release no frame waits. -/
theorem AckEffect.trans (h₁ : AckEffect P bytes s t) (h₂ : AckEffect P bytes' t u) (hsuffix : bytes' <:+ bytes) :
    AckEffect P bytes s u := by
  rcases h₁ with hkept | hreleased <;> rcases h₂ with hkept' | hreleased'
  · exact .inl (hkept.trans hkept')
  · exact .inr (hkept.trans_released { hreleased' with acked := hreleased'.acked.of_suffix hsuffix })
  · exact .inr (hreleased.trans_kept hkept')
  · exact absurd hreleased.sendLen hreleased'.waiting

theorem inboundAck_effect {a : Nibble} (hstands : AckStandsIn P a bytes) (s : State) :
    AckEffect P bytes s (inboundAck a s) := by
  rcases inboundAck_cases a s with ⟨-, e⟩ | ⟨-, -, -, -, e⟩ | ⟨hwait, hsent, rfl, hsrc, e⟩ <;> rw [e]
  · exact .inl (.refl s)
  · exact .inl ⟨rfl, rfl, rfl, rfl, rfl⟩
  · exact .inr ⟨hwait, hsent, hsrc, hstands, rfl, rfl, rfl⟩

theorem inboundData_messageKept {own : Nibble} {p : List Byte} (h : inboundData P own p s = .ok t) :
    MessageKept s t := by
  rcases inboundData_cases h with ⟨-, rfl⟩ | ⟨-, -, rfl⟩ | ⟨-, -, -, rfl⟩ <;> exact ⟨rfl, rfl, rfl, rfl, rfl⟩

/-- `consume` honours the frame's ACK nibble, and its payload does not touch the message (R76). -/
theorem consume_effect {len : Byte} (hstands : AckStandsIn P (seqAckn sq) bytes)
    (h : consume P len sq tail s = .ok t) : AckEffect P bytes s t := by
  have hdropped : MessageKept s
      { s with rbHead := (s.rbHead + len.toNat) % P.rbSize, rbUsed := s.rbUsed - len.toNat, zeroRun := 0#32 } :=
    ⟨rfl, rfl, rfl, rfl, rfl⟩
  have hack : AckEffect P bytes s (afterAck P len sq s) :=
    AckEffect.trans (.inl hdropped) (inboundAck_effect hstands _) List.suffix_rfl
  obtain ⟨-, h⟩ := consume_eq_ok.1 h
  split at h
  · exact hack.trans (bytes' := bytes) (.inl (inboundData_messageKept h)) List.suffix_rfl
  · rw [h]; exact hack

/-- What a part of a scan does: it drops bytes from the front, and reads the ACK nibbles of frames among them. -/
structure ScanReads (P : Params) (s t : State) : Prop where
  suffix : unread P t <:+ unread P s
  effect : AckEffect P (unread P s) s t

theorem ScanReads.refl (s : State) : ScanReads P s s := ⟨List.suffix_rfl, .inl (.refl s)⟩

theorem ScanReads.trans (h₁ : ScanReads P s t) (h₂ : ScanReads P t u) : ScanReads P s u :=
  ⟨h₂.suffix.trans h₁.suffix, h₁.effect.trans h₂.effect h₁.suffix⟩

theorem stepSeek_reads (h : stepSeek P s = .ok t) : ScanReads P s t := by
  obtain ⟨hpos, ⟨-, rfl⟩ | ⟨-, rfl⟩ | ⟨-, rfl⟩⟩ := stepSeek_cases h
  · exact ⟨unread_suffix hpos rfl rfl rfl, .inl ⟨rfl, rfl, rfl, rfl, rfl⟩⟩
  · exact ⟨unread_suffix hpos rfl rfl rfl, .inl ⟨rfl, rfl, rfl, rfl, rfl⟩⟩
  · exact ⟨List.suffix_rfl, .inl ⟨rfl, rfl, rfl, rfl, rfl⟩⟩

theorem stepComplete_reads (hi : ScanInv P s) (hrx : s.rxState = .frameComplete)
    (h : stepComplete P s = .ok (.progress t)) : ScanReads P s t := by
  obtain ⟨kind, sq, tail, hc⟩ := hi.exists_candidate hrx
  have hrb : t.rb = s.rb := (stepComplete_progress_stores hi hrx h).rb
  rcases hc.progress_cases h with rfl | ⟨hgood, u, hu, rfl⟩
  · have hpos : 1 ≤ s.rbUsed := by have := hc.used; have := hc.length; omega
    exact ⟨unread_suffix hpos rfl rfl rfl, .inl ⟨rfl, rfl, rfl, rfl, rfl⟩⟩
  · obtain ⟨hhead, hused, hle⟩ := consume_ring hu
    have hjudged : AckEffect P (unread P s) s (candidateState P s) := .inl ⟨rfl, rfl, rfl, rfl, rfl⟩
    have hsought : AckEffect P (unread P s) u (seekAgain u) := .inl ⟨rfl, rfl, rfl, rfl, rfl⟩
    have hconsumed := consume_effect (hc.ackStandsIn hgood) hu
    exact ⟨unread_suffix hle hrb hhead hused,
      (hjudged.trans hconsumed List.suffix_rfl).trans hsought List.suffix_rfl⟩

theorem ScanPass.reads (hi : ScanInv P s) (h : ScanPass P s t) : ScanReads P s t := by
  cases h with
  | seek _ _ hstep => exact stepSeek_reads hstep
  | complete _ _ => exact ⟨List.suffix_rfl, .inl ⟨rfl, rfl, rfl, rfl, rfl⟩⟩
  | progress hrx hstep => exact stepComplete_reads hi hrx hstep

theorem ScanPasses.reads (hi : ScanInv P s) (h : ScanPasses P s t) : ScanReads P s t := by
  induction h with
  | refl => exact .refl s
  | tail hpasses hpass ih => exact ih.trans (hpass.reads (ScanPasses.scanInv hpasses hi))

theorem ScanExit.reads (hi : ScanInv P s) (h : ScanExit P s t) : ScanReads P s t := by
  cases h with
  | empty _ _ => exact .refl s
  | short _ _ => exact .refl s
  | stall hrx hstep =>
    rw [stepComplete_stall_eq hi hrx hstep]
    exact ⟨List.suffix_rfl, .inl ⟨rfl, rfl, rfl, rfl, rfl⟩⟩

/-- A scan releases a frame only by an ACK among the bytes it has before it (R80, R90). -/
theorem scan_effect (hi : ScanInv P s) (h : scan P s = .ok t) : AckEffect P (unread P s) s t := by
  obtain ⟨u, hpasses, hexit⟩ := (scan_eq_ok hi).1 h
  exact ((hpasses.reads hi).trans (hexit.reads (hpasses.scanInv hi))).effect

/-! ## The cases of R90 -/

/-- Both lengths stay. -/
def LengthsKept (s t : State) : Prop := t.slotTxLen = s.slotTxLen ∧ t.sendLen = s.sendLen

/-- A TICK frames the message: its length moves on to the send buffer (R86). -/
def MessageFramed (i : Instr) (s t : State) : Prop :=
  (∃ now, i = .tick now) ∧ s.slotTxLen ≠ 0#8 ∧ s.sendLen = 0#8
    ∧ t.slotTxLen = 0#8 ∧ t.sendLen.toNat = s.slotTxLen.toNat + 3

/-- A frame already sent is released, and its ACK has come (R80, R81, R88). -/
def MessageReleased (P : Params) (i : Instr) (s t : State) : Prop :=
  s.sendLen ≠ 0#8 ∧ s.txSent = true ∧ t.sendLen = 0#8 ∧ t.slotTxLen = 0#8 ∧ t.seqCur = nextSeq s.seqCur
    ∧ ((i = .txByte ∧ s.txSrc = .data ∧ s.txRel = true ∧ s.txIdx.toNat + 1 = s.sendLen.toNat)
      ∨ (s.txSrc ≠ .data ∧ AckStandsIn P s.seqCur (scannedBytes P i s)))

/-- What R90 allows an operation to do to a message in flight. -/
def MessageFate (P : Params) (i : Instr) (s t : State) : Prop :=
  LengthsKept s t ∨ MessageFramed i s t ∨ MessageReleased P i s t

theorem MessageKept.lengths (h : MessageKept s t) : LengthsKept s t := ⟨h.slotTxLen, h.sendLen⟩

/-- Behind a frame in the send buffer no message waits (R36 item 12). -/
theorem Inv.slotTxLen_eq_zero (hi : Inv P s) (hsend : s.sendLen ≠ 0#8) : s.slotTxLen = 0#8 := by
  by_contra hslot
  exact hsend (hi.one_message hslot)

theorem AckEffect.fate (h : AckEffect P (scannedBytes P i s) s t) (hi : Inv P s) : MessageFate P i s t := by
  rcases h with hkept | hreleased
  · exact .inl hkept.lengths
  · exact .inr (.inr ⟨hreleased.waiting, hreleased.sent, hreleased.sendLen,
      hreleased.slotTxLen.trans (hi.slotTxLen_eq_zero hreleased.waiting), hreleased.seqCur,
      .inr ⟨hreleased.notOnLine, hreleased.acked⟩⟩)

/-! ## TICK and the wire -/

theorem baudApply_messageKept (s : State) : MessageKept s (baudApply s) := by
  rw [baudApply_eq]
  exact ⟨rfl, rfl, rfl, rfl, rfl⟩

theorem retxTimer_messageKept (P : Params) (s : State) : MessageKept s (retxTimer P s) := by
  rw [retxTimer_eq]
  exact ⟨rfl, rfl, rfl, rfl, rfl⟩

/-- A TICK frames the message that waits, or runs the timer after what the scan did (R102). -/
theorem tick_fate {now : Word} (hi : Inv P s) (h : tickWith P now s = .ok t) : MessageFate P (.tick now) s t := by
  obtain ⟨u, hu, h⟩ := run_bind_eq_ok.1 h
  obtain ⟨v, hv, h⟩ := run_bind_eq_ok.1 h
  obtain rfl := Except.ok.inj h
  have hscan := scan_effect (withNowReg_inv now hi).scanInv hu
  have hslot : u.slotTxLen = s.slotTxLen := (scan_stores (withNowReg_inv now hi) hu).slotTxLen
  have hlatched : AckEffect P (unread P s) s { s with nowReg := now } := .inl ⟨rfl, rfl, rfl, rfl, rfl⟩
  have heffect : AckEffect P (unread P s) s u := hlatched.trans hscan List.suffix_rfl
  have hbaud := baudApply_messageKept v
  unfold frameOrTimer at hv
  split at hv
  · next hframes =>
    have hwaits : s.slotTxLen ≠ 0#8 := hslot ▸ hframes.2
    have hlen := hi.slotTxLen_add_three hwaits
    rw [frameFromSlot_eq (tickScan_inv hi hu) hframes.2] at hv
    obtain rfl := Except.ok.inj hv
    refine .inr (.inl ⟨⟨now, rfl⟩, hwaits, hi.one_message hwaits, hbaud.slotTxLen, ?_⟩)
    rw [hbaud.sendLen, ← hlen, ← hslot]
  · obtain rfl := Except.ok.inj hv
    have hrest : AckEffect P (unread P s) u (baudApply (retxTimer P u)) :=
      .inl ((retxTimer_messageKept P u).trans hbaud)
    exact AckEffect.fate (i := .tick now) (heffect.trans hrest List.suffix_rfl) hi

theorem rbPush_messageKept (b : Byte) (s : State) : MessageKept s (rbPush P b s) := by
  rcases rbMakeRoom_cases P s with ⟨-, e⟩ | ⟨-, e⟩ <;> rw [rbPush, e] <;> exact ⟨rfl, rfl, rfl, rfl, rfl⟩

theorem rbPushBytes_messageKept (bytes : List Byte) (s : State) : MessageKept s (rbPushBytes P bytes s) := by
  induction bytes generalizing s with
  | nil => exact .refl s
  | cons b bytes ih => exact (rbPush_messageKept b s).trans (ih (rbPush P b s))

theorem scannedBytes_wire (hwire : i.isWire = true) :
    scannedBytes P i s = unread P (rbPushBytes P (encode i) s) := by
  cases i with
  | wIdle | wAck | wData | wBadlen => rfl
  | _ => cases hwire

theorem wire_fate (hi : Inv P s) (hwire : i.isWire = true) (h : receiveUnit P (encode i) s = .ok t) :
    MessageFate P i s t := by
  have hscan := scan_effect (rbPushBytes_inv (encode i) hi).scanInv h
  have hpush : AckEffect P (scannedBytes P i s) s (rbPushBytes P (encode i) s) :=
    .inl (rbPushBytes_messageKept (encode i) s)
  exact (hpush.trans hscan (scannedBytes_wire hwire ▸ List.suffix_rfl)).fate hi

/-! ## TX_BYTE -/

/-- TX_BYTE releases a frame only with its last byte, after its ACK has come (R81, R88). -/
theorem txByte_fate (hi : Inv Config.params s) (h : exec .txByte s = .next t) :
    MessageFate Config.params .txByte s t := by
  obtain ⟨hdata, hack⟩ := txByteContinuesFrame s hi
  cases hsrc : s.txSrc with
  | data =>
    obtain ⟨hne, hsent⟩ := hi.data_sent hsrc
    obtain rfl := Host.Outcome.next.inj ((hdata hsrc).symm.trans h)
    split
    · exact .inl ⟨rfl, rfl⟩
    · next hlast =>
      split
      · exact .inl ⟨rfl, rfl⟩
      · next hrel =>
        exact .inr (.inr ⟨hne, hsent, rfl, hi.slotTxLen_eq_zero hne, rfl,
          .inl ⟨rfl, hsrc, by simpa using hrel, not_not.1 hlast⟩⟩)
  | ack =>
    obtain rfl := Host.Outcome.next.inj ((hack hsrc).symm.trans h)
    split <;> exact .inl ⟨rfl, rfl⟩
  | idle =>
    left
    cases hdue : s.txDue with
    | true =>
      obtain ⟨u, hu, e, -⟩ := txByteStartsData s hi hsrc hdue
      obtain rfl := Host.Outcome.next.inj (hu.symm.trans h)
      rw [e]
      exact ⟨rfl, rfl⟩
    | false =>
      cases howed : s.ackOwed with
      | true =>
        obtain ⟨u, hu, e, -⟩ := txByteStartsAck s hi hsrc hdue howed
        obtain rfl := Host.Outcome.next.inj (hu.symm.trans h)
        rw [e]
        exact ⟨rfl, rfl⟩
      | false =>
        obtain rfl := Host.Outcome.next.inj ((txByteIdleFiller s hsrc hdue howed).symm.trans h)
        exact ⟨rfl, rfl⟩

/-! ## The other operations -/

/-- SUBMIT takes nothing while a message is in flight (R85). -/
theorem submit_lengths {p : List Byte} (hflight : InFlight s) (h : submitWith P p s = .ok t) : LengthsKept s t := by
  rcases submitWith_cases h with ⟨-, rfl⟩ | ⟨-, -, -, rfl⟩ | ⟨-, -, hslot, hsend, -⟩
  · exact ⟨rfl, rfl⟩
  · exact ⟨rfl, rfl⟩
  · exact absurd hflight (by simp [InFlight, hslot, hsend])

theorem drain_lengths (h : drainWith P s = .ok t) : LengthsKept s t := by
  rcases drainWith_eq_ok.1 h with ⟨-, rfl⟩ | ⟨-, -, rfl⟩ <;> exact ⟨rfl, rfl⟩

theorem readReg_lengths (r : Byte) (s : State) : LengthsKept s (readRegWith P r s) := by
  unfold readRegWith
  split <;> exact ⟨rfl, rfl⟩

theorem pendFixedRate_lengths (s : State) : LengthsKept s (pendFixedRate s) := by
  rcases pendFixedRate_cases s with ⟨-, e⟩ | ⟨-, e⟩ <;> rw [e] <;> exact ⟨rfl, rfl⟩

theorem proposeBaud_lengths {v : Word} (h : execProposeBaud v s = .next t) : LengthsKept s t := by
  obtain rfl := Host.Outcome.next.inj h
  split <;> exact ⟨rfl, rfl⟩

/-- Settles O22, operation by operation: only a scan, a framing and the last TX_BYTE of a frame touch the lengths, and
each of these does so in one of R90's ways. -/
theorem onlyReleaseOrResetEndsAMessage : Obligations.OnlyReleaseOrResetEndsAMessage := by
  intro i s t hi hflight hreset h
  show MessageFate Config.params i s t
  cases i with
  | reset => exact absurd rfl hreset
  | tick now => exact tick_fate hi (runOutcome_eq_next.1 h)
  | txByte => exact txByte_fate hi h
  | wIdle | wAck own ackn chk | wData own ackn p chk | wBadlen len => exact wire_fate hi rfl (runOutcome_eq_next.1 h)
  | rxByte b => exact .inl (Host.Outcome.next.inj h ▸ (rbPush_messageKept b s).lengths)
  | submit p => exact .inl (submit_lengths hflight (runOutcome_eq_next.1 h))
  | drain => exact .inl (drain_lengths (runOutcome_eq_next.1 h))
  | readReg r => exact .inl (Host.Outcome.next.inj h ▸ readReg_lengths r s)
  | setBaud v => exact .inl (Host.Outcome.next.inj h ▸ pendFixedRate_lengths { s with baudCfg := clampBaud v })
  | setDynConfig en min =>
    exact .inl (Host.Outcome.next.inj h ▸
      pendFixedRate_lengths { s with dynEnable := en ≠ 0#8, dynMin := clampBaud min })
  | proposeBaud v => exact .inl (proposeBaud_lengths h)
  | invalid op => exact .inl (Host.Outcome.next.inj h ▸ ⟨rfl, rfl⟩)

end Sys2Proof.Machine
end

section
/-! The baud commands (44_baud_and_counters.md R91 to R94) as equations, and what the commands without a message store
(R101, R63): nothing. -/

namespace Sys2Proof.Machine

variable {s t : State} {v c : Word}

/-! ## Rates -/

/-- The clamp's number (R91) names the rate. -/
theorem eq_clampBaud (h : c.toNat = min (max v.toNat 400000) 2000000) : c = clampBaud v :=
  BitVec.eq_of_toNat_eq (h.trans (clampBaud_toNat v).symm)

/-- The proposed rate's number (R94): clamped, and not below the floor. -/
theorem eq_maxWord_clampBaud {floor : Word}
    (h : c.toNat = max (min (max v.toNat 400000) 2000000) floor.toNat) : c = maxWord (clampBaud v) floor :=
  BitVec.eq_of_toNat_eq (by rw [h, maxWord_toNat, clampBaud_toNat])

theorem pendFixedRate_fixed (h : s.dynEnable = false) :
    pendFixedRate s = { s with baudNew := s.baudCfg, baudChange := true } := if_pos h

theorem pendFixedRate_dynamic (h : s.dynEnable = true) : pendFixedRate s = s := if_neg (by simp [h])

/-- Settles O24: the clamp, then the fixed mode's part. -/
theorem setBaudRule : Obligations.SetBaudRule := by
  intro v c s hc
  rw [eq_clampBaud hc]
  show Host.Outcome.next (respondStatus .ok (pendFixedRate { s with baudCfg := clampBaud v })) = _
  split
  · next hdyn => rw [pendFixedRate_dynamic (s := { s with baudCfg := clampBaud v }) hdyn]; rfl
  · next hfixed => rw [pendFixedRate_fixed (s := { s with baudCfg := clampBaud v }) (by simpa using hfixed)]; rfl

/-- Settles O25: the mode just stored decides whether the fixed rate becomes pending. -/
theorem setDynConfigRule : Obligations.SetDynConfigRule := by
  intro en floor c s hc
  rw [eq_clampBaud hc]
  show Host.Outcome.next
    (respondStatus .ok (pendFixedRate { s with dynEnable := en ≠ 0#8, dynMin := clampBaud floor })) = _
  split
  · next hon => rw [decide_eq_true hon, pendFixedRate_dynamic rfl]; rfl
  · next hoff => rw [decide_eq_false hoff, pendFixedRate_fixed rfl]; rfl

theorem exec_proposeBaud_fixed (h : s.dynEnable = false) :
    exec (.proposeBaud v) s = .next (respondStatus .ignored (signal .proposalIgnored s)) :=
  congrArg Host.Outcome.next (if_pos h)

theorem exec_proposeBaud_dynamic (h : s.dynEnable = true) :
    exec (.proposeBaud v) s =
      .next (respondStatus .ok { s with baudNew := maxWord (clampBaud v) s.dynMin, baudChange := true }) :=
  congrArg Host.Outcome.next (if_neg (by simp [h]))

/-- Settles O26: the two modes. -/
theorem proposeBaudRule : Obligations.ProposeBaudRule := by
  intro v c s hc
  rw [eq_maxWord_clampBaud hc]
  split
  · next hdyn => rw [exec_proposeBaud_dynamic hdyn]; rfl
  · next hfixed => rw [exec_proposeBaud_fixed (by simpa using hfixed)]; rfl

/-! ## Storage areas -/

theorem areaMem_pendFixedRate (s : State) (a : Area) : areaMem (pendFixedRate s) a = areaMem s a := by
  rcases pendFixedRate_cases s with ⟨-, e⟩ | ⟨-, e⟩ <;> rw [e]
  cases a <;> rfl

theorem areaMem_respondStatus (st : Status) (s : State) (a : Area) :
    areaMem (respondStatus st s) a = areaMem s a := areaMem_respond s _ a

theorem areaMem_readRegWith (P : Params) (r : Byte) (s : State) (a : Area) :
    areaMem (readRegWith P r s) a = areaMem s a := by
  unfold readRegWith
  split
  · exact areaMem_respond s _ a
  · rw [areaMem_respond, areaMem_signal]

theorem areaMem_setBaud (h : exec (.setBaud v) s = .next t) (a : Area) : areaMem t a = areaMem s a := by
  obtain rfl := Host.Outcome.next.inj h
  rw [areaMem_respondStatus, areaMem_pendFixedRate]
  cases a <;> rfl

theorem areaMem_setDynConfig {en : Byte} (h : exec (.setDynConfig en v) s = .next t) (a : Area) :
    areaMem t a = areaMem s a := by
  obtain rfl := Host.Outcome.next.inj h
  rw [areaMem_respondStatus, areaMem_pendFixedRate]
  cases a <;> rfl

theorem areaMem_proposeBaud (h : exec (.proposeBaud v) s = .next t) (a : Area) : areaMem t a = areaMem s a := by
  obtain rfl := Host.Outcome.next.inj h
  split
  · rw [areaMem_respondStatus, areaMem_signal]
  · rw [areaMem_respondStatus]
    cases a <;> rfl

theorem areaMem_invalid {op : Byte} (h : exec (.invalid op) s = .next t) (a : Area) : areaMem t a = areaMem s a := by
  obtain rfl := Host.Outcome.next.inj h
  rw [areaMem_respondStatus, areaMem_signal]

/-- Settles O21: each of the five commands leaves every area's whole contents. -/
theorem quietCommandsStoreNothing : Obligations.QuietCommandsStoreNothing := by
  intro i s t hquiet h a j
  suffices hmem : areaMem t a = areaMem s a by rw [hmem]
  rcases hquiet with ⟨r, rfl⟩ | ⟨v, rfl⟩ | ⟨en, floor, rfl⟩ | ⟨v, rfl⟩ | ⟨op, rfl⟩
  · exact Host.Outcome.next.inj h ▸ areaMem_readRegWith Config.params r s a
  · exact areaMem_setBaud h a
  · exact areaMem_setDynConfig h a
  · exact areaMem_proposeBaud h a
  · exact areaMem_invalid h a

end Sys2Proof.Machine
end

section
/-! The receive path in every state, with or without the invariant: what arriving bytes and a scan leave alone (the rates,
the transmit mailbox and its counter), and that the error counters account for the events (41_receive_resync.md R72 to
R76; 44_baud_and_counters.md R98). -/

namespace Sys2Proof.Machine

variable {P : Params} {s t u : State}

/-! ## What the receive path leaves alone -/

/-- The frame on the line and all that R28 holds of the rates are as before. -/
structure RatesKept (s t : State) : Prop where
  txSrc : t.txSrc = s.txSrc
  baudCfg : t.baudCfg = s.baudCfg
  baudCurrent : t.baudCurrent = s.baudCurrent
  baudNew : t.baudNew = s.baudNew
  baudChange : t.baudChange = s.baudChange
  dynEnable : t.dynEnable = s.dynEnable
  dynMin : t.dynMin = s.dynMin

/-- What the receive path does in any state: the error counters account for its events, it may deliver, and it leaves
the rates and the transmit mailbox alone. -/
structure Receives (s t : State) : Prop extends RatesKept s t where
  errors : ∃ es, CountsEvents s t es
  slotTxLen : t.slotTxLen = s.slotTxLen
  msgFromBrick : t.msgFromBrick = s.msgFromBrick
  msgFromBricklet_le : s.msgFromBricklet ≤ t.msgFromBricklet

theorem RatesKept.refl (s : State) : RatesKept s s := ⟨rfl, rfl, rfl, rfl, rfl, rfl, rfl⟩

theorem RatesKept.trans (h₁ : RatesKept s t) (h₂ : RatesKept t u) : RatesKept s u where
  txSrc := h₂.txSrc.trans h₁.txSrc
  baudCfg := h₂.baudCfg.trans h₁.baudCfg
  baudCurrent := h₂.baudCurrent.trans h₁.baudCurrent
  baudNew := h₂.baudNew.trans h₁.baudNew
  baudChange := h₂.baudChange.trans h₁.baudChange
  dynEnable := h₂.dynEnable.trans h₁.dynEnable
  dynMin := h₂.dynMin.trans h₁.dynMin

theorem countsEvents_trans (h₁ : ∃ es, CountsEvents s t es) (h₂ : ∃ es, CountsEvents t u es) :
    ∃ es, CountsEvents s u es := by
  obtain ⟨es, hes⟩ := h₁
  obtain ⟨es', hes'⟩ := h₂
  exact ⟨es ++ es', hes.trans hes'⟩

theorem Receives.refl (s : State) : Receives s s :=
  ⟨.refl s, (ScanKeeps.refl s).counts, rfl, rfl, BitVec.le_refl _⟩

theorem Receives.trans (h₁ : Receives s t) (h₂ : Receives t u) : Receives s u :=
  ⟨h₁.toRatesKept.trans h₂.toRatesKept, countsEvents_trans h₁.errors h₂.errors, h₂.slotTxLen.trans h₁.slotTxLen,
    h₂.msgFromBrick.trans h₁.msgFromBrick, BitVec.le_trans h₁.msgFromBricklet_le h₂.msgFromBricklet_le⟩

/-! ## RX_BYTE -/

theorem rbMakeRoom_receives (P : Params) (s : State) : Receives s (rbMakeRoom P s) := by
  rcases rbMakeRoom_cases P s with ⟨-, e⟩ | ⟨-, e⟩ <;> rw [e]
  · exact .refl s
  · exact { Receives.refl s with errors := ⟨[.overflowError], rfl, rfl, rfl, rfl, rfl⟩ }

theorem rbPush_receives (b : Byte) (s : State) : Receives s (rbPush P b s) :=
  (rbMakeRoom_receives P s).trans { Receives.refl (rbMakeRoom P s) with }

theorem rbPushBytes_receives (bytes : List Byte) (s : State) : Receives s (rbPushBytes P bytes s) := by
  induction bytes generalizing s with
  | nil => exact .refl s
  | cons b bytes ih => exact (rbPush_receives b s).trans (ih (rbPush P b s))

/-! ## SCAN -/

/-- Everything `step_complete` can do when it answers, in any state (R75): skip a byte, stall, or consume the frame it
reads back from `scratch`, which need not stall. -/
theorem stepComplete_ok_cases {r : ScanProgress} (h : stepComplete P s = .ok r) :
    (∃ t, skipByte P (candidateState P s) = .ok t ∧ r = .progress t)
    ∨ r = .stall (candidateState P s)
    ∨ ∃ len sq tail t, memReadBytes (candidateState P s).scratch 0 s.rxLen.toNat = len :: sq :: tail
        ∧ mustStall (seqOwn sq) (candidateState P s) = false
        ∧ consume P len sq tail (candidateState P s) = .ok t ∧ r = .progress (seekAgain t) := by
  obtain ⟨bytes, hbytes, h⟩ := run_bind_eq_ok.1 h
  obtain ⟨-, rfl⟩ := rbPeekBytes_eq_ok.1 hbytes
  obtain ⟨c, hc, h⟩ := run_bind_eq_ok.1 h
  obtain ⟨-, rfl⟩ := store_eq_ok.1 hc
  obtain ⟨g, hg, h⟩ := run_bind_eq_ok.1 h
  obtain ⟨-, hg⟩ := load_eq_ok.1 hg
  split at h
  · next len sq tail _ =>
    split at h
    · obtain ⟨t, ht, e⟩ := run_bind_eq_ok.1 h
      exact .inl ⟨t, ht, (Except.ok.inj e).symm⟩
    · split at h
      · exact .inr (.inl (Except.ok.inj h).symm)
      · next hfree =>
        obtain ⟨t, ht, e⟩ := run_bind_eq_ok.1 h
        exact .inr (.inr ⟨len, sq, tail, t, hg.symm, Bool.eq_false_of_not_eq_true hfree, ht, (Except.ok.inj e).symm⟩)
  · cases h

theorem stepSeek_receives (h : stepSeek P s = .ok t) : Receives s t := by
  have herrors := (stepSeek_keeps h).counts
  obtain ⟨-, ⟨-, rfl⟩ | ⟨-, rfl⟩ | ⟨-, rfl⟩⟩ := stepSeek_cases h <;>
    exact { Receives.refl s with errors := herrors }

theorem candidateState_receives (P : Params) (s : State) : Receives s (candidateState P s) :=
  { Receives.refl s with }

theorem skipByte_receives (h : skipByte P s = .ok t) : Receives s t := by
  have herrors := (skipByte_keeps h).counts
  obtain ⟨-, rfl⟩ := skipByte_eq_ok.1 h
  exact { Receives.refl s with errors := herrors }

theorem inboundData_receives {own : Nibble} {p : List Byte} (h : inboundData P own p s = .ok t) : Receives s t := by
  have herrors := (inboundData_keeps h).counts
  rcases inboundData_cases h with ⟨-, rfl⟩ | ⟨-, -, rfl⟩ | ⟨-, -, -, rfl⟩
  · exact { Receives.refl s with errors := herrors }
  · exact { Receives.refl s with }
  · exact { Receives.refl s with msgFromBricklet_le := le_satInc _ }

theorem afterAck_receives (P : Params) (len sq : Byte) (s : State) : Receives s (afterAck P len sq s) := by
  rw [afterAck, inboundAck_frame]
  exact { Receives.refl s with }

theorem consume_receives {len sq : Byte} {tail : List Byte} (h : consume P len sq tail s = .ok t) : Receives s t := by
  obtain ⟨-, h⟩ := consume_eq_ok.1 h
  split at h
  · exact (afterAck_receives P len sq s).trans (inboundData_receives h)
  · rw [h]; exact afterAck_receives P len sq s

theorem stepComplete_progress_receives (h : stepComplete P s = .ok (.progress t)) : Receives s t := by
  refine (candidateState_receives P s).trans ?_
  rcases stepComplete_ok_cases h with ⟨u, hu, e⟩ | e | ⟨len, sq, tail, u, -, -, hu, e⟩ <;> cases e
  · exact skipByte_receives hu
  · exact (consume_receives hu).trans { Receives.refl u with }

theorem stepComplete_stall_receives (h : stepComplete P s = .ok (.stall t)) : Receives s t := by
  rcases stepComplete_ok_cases h with ⟨u, -, e⟩ | e | ⟨len, sq, tail, u, -, -, -, e⟩ <;> cases e
  exact candidateState_receives P s

theorem scan_receives (h : scan P s = .ok t) : Receives s t :=
  scan_keeps (R := Receives) .refl (fun _ _ _ => .trans)
    (seek := fun _ _ _ _ => stepSeek_receives)
    (complete := fun s _ _ => { Receives.refl s with })
    (progress := fun _ _ _ => stepComplete_progress_receives)
    (stall := fun _ _ _ => stepComplete_stall_receives) h

theorem receiveUnit_receives {bytes : List Byte} (h : receiveUnit P bytes s = .ok t) : Receives s t :=
  (rbPushBytes_receives bytes s).trans (scan_receives h)

end Sys2Proof.Machine
end

section
/-! How the receive path counts what it delivers (44_baud_and_counters.md R99; 42_seq_ack.md R82): from a state of the
invariant, `msg_from_bricklet` counts once for an empty receive mailbox that is filled, and a full one stays as it is. -/

namespace Sys2Proof.Machine

variable {P : Params} {s t u : State}

/-! ## A mailbox and its counter -/

/-- A mailbox's counter goes from `c` to `c'` as its length goes from `before` to `after` (R99): the mailbox was not
filled and nothing counted, or it was filled and counted once. -/
def MailboxCounted (before after : Byte) (c c' : Word) : Prop :=
  ((before = 0#8 → after = 0#8) ∧ c' = c) ∨ (before = 0#8 ∧ after ≠ 0#8 ∧ c' = satInc c)

theorem MailboxCounted.eq {before after : Byte} {c c' : Word} (h : MailboxCounted before after c c') :
    c' = if before = 0#8 ∧ after ≠ 0#8 then satInc c else c := by
  rcases h with ⟨hempty, e⟩ | ⟨hbefore, hafter, e⟩
  · rw [if_neg fun hfilled => hfilled.2 (hempty hfilled.1), e]
  · rw [if_pos ⟨hbefore, hafter⟩, e]

/-- What the receive path does to its mailbox: a full one stays, and a filling is counted (R82, R99). -/
structure CountsDelivery (s t : State) : Prop where
  full : s.slotRxLen ≠ 0#8 → t.slotRxLen = s.slotRxLen
  counted : MailboxCounted s.slotRxLen t.slotRxLen s.msgFromBricklet t.msgFromBricklet

theorem CountsDelivery.refl (s : State) : CountsDelivery s s := ⟨fun _ => rfl, .inl ⟨id, rfl⟩⟩

/-- Of two parts one after the other at most one fills the mailbox: what the first filled is full for the second. -/
theorem CountsDelivery.trans (h₁ : CountsDelivery s t) (h₂ : CountsDelivery t u) : CountsDelivery s u := by
  refine ⟨fun hs => (h₂.full (h₁.full hs ▸ hs)).trans (h₁.full hs), ?_⟩
  rcases h₁.counted with ⟨hempty, e⟩ | ⟨hs, ht, e⟩ <;> rcases h₂.counted with ⟨hempty', e'⟩ | ⟨ht', hu, e'⟩
  · exact .inl ⟨hempty' ∘ hempty, e'.trans e⟩
  · have hs : s.slotRxLen = 0#8 := by
      by_contra hs
      exact hs ((h₁.full hs).symm.trans ht')
    exact .inr ⟨hs, hu, e ▸ e'⟩
  · exact .inr ⟨hs, h₂.full ht ▸ ht, e'.trans e⟩
  · exact absurd ht' ht

/-! ## RX_BYTE -/

theorem rbPush_countsDelivery (b : Byte) (s : State) : CountsDelivery s (rbPush P b s) := by
  rcases rbMakeRoom_cases P s with ⟨-, e⟩ | ⟨-, e⟩ <;> rw [rbPush, e] <;> exact { CountsDelivery.refl s with }

theorem rbPushBytes_countsDelivery (bytes : List Byte) (s : State) : CountsDelivery s (rbPushBytes P bytes s) := by
  induction bytes generalizing s with
  | nil => exact .refl s
  | cons b bytes ih => exact (rbPush_countsDelivery b s).trans (ih (rbPush P b s))

/-! ## SCAN -/

theorem stepSeek_countsDelivery (h : stepSeek P s = .ok t) : CountsDelivery s t := by
  obtain ⟨-, ⟨-, rfl⟩ | ⟨-, rfl⟩ | ⟨-, rfl⟩⟩ := stepSeek_cases h <;> exact { CountsDelivery.refl s with }

theorem candidateState_countsDelivery (P : Params) (s : State) : CountsDelivery s (candidateState P s) :=
  { CountsDelivery.refl s with }

theorem skipByte_countsDelivery (h : skipByte P s = .ok t) : CountsDelivery s t := by
  obtain ⟨-, rfl⟩ := skipByte_eq_ok.1 h
  exact { CountsDelivery.refl s with }

theorem afterAck_countsDelivery (P : Params) (len sq : Byte) (s : State) : CountsDelivery s (afterAck P len sq s) := by
  rw [afterAck, inboundAck_frame]
  exact { CountsDelivery.refl s with }

/-- A new frame finds the mailbox empty, and its payload is not empty (R54, R75, R82). -/
theorem inboundData_countsDelivery {own : Nibble} {p : List Byte} (hp : P.minMsgLen ≤ p.length)
    (hnew : own ≠ 0#4 → own ≠ s.seqLastSeen → s.slotRxLen = 0#8) (h : inboundData P own p s = .ok t) :
    CountsDelivery s t := by
  rcases inboundData_cases h with ⟨-, rfl⟩ | ⟨-, -, rfl⟩ | ⟨hne, hseen, hmax, rfl⟩
  · exact { CountsDelivery.refl s with }
  · exact { CountsDelivery.refl s with }
  · have hempty := hnew hne hseen
    exact ⟨fun hfull => absurd hempty hfull, .inr ⟨hempty, payloadLength_ne_zero ⟨hp, hmax⟩, rfl⟩⟩

theorem consume_countsDelivery {sq : Byte} {tail : List Byte}
    (hclass : lenClass P s.rxLen = .ack ∨ lenClass P s.rxLen = .data) (htail : tail.length + 2 = s.rxLen.toNat)
    (hfree : mustStall (seqOwn sq) s = false) (h : consume P s.rxLen sq tail s = .ok t) : CountsDelivery s t := by
  have hack := afterAck_countsDelivery P s.rxLen sq s
  obtain ⟨hseen, hmail⟩ := afterAck_mailbox P s.rxLen sq s
  obtain ⟨-, h⟩ := consume_eq_ok.1 h
  split at h
  · next hlong =>
    refine hack.trans (inboundData_countsDelivery ?_ (fun hne hnew => ?_) h)
    · rw [List.length_dropLast]
      have := range_of_data (data_of_long hclass hlong)
      omega
    · by_contra hfull
      have hstall : mustStall (seqOwn sq) s = true := mustStall_iff.2 ⟨hlong, hne, hseen ▸ hnew, hmail ▸ hfull⟩
      exact absurd (hfree.symm.trans hstall) Bool.false_ne_true
  · rw [h]; exact hack

/-- What `step_complete` reads back from `scratch` is the candidate as the ring holds it (R75). -/
theorem candidateState_scratch (hwf : s.scratch.wf) :
    memReadBytes (candidateState P s).scratch 0 s.rxLen.toNat = ringBytes P s.rxLen.toNat s := by
  have hread := memReadBytes_memWriteBytes hwf 0 (ringBytes P s.rxLen.toNat s)
  rwa [ringBytes_length] at hread

theorem stepComplete_progress_countsDelivery (hi : ScanInv P s) (hrx : s.rxState = .frameComplete)
    (h : stepComplete P s = .ok (.progress t)) : CountsDelivery s t := by
  refine (candidateState_countsDelivery P s).trans ?_
  rcases stepComplete_ok_cases h with ⟨u, hu, e⟩ | e | ⟨len, sq, tail, u, hg, hfree, hu, e⟩ <;> cases e
  · exact skipByte_countsDelivery hu
  · obtain ⟨sq', tail', hg', htail⟩ := ringBytes_candidate hi.receive hrx
    obtain ⟨-, -, hclass⟩ := hi.receive.candidate (by rw [hrx]; decide)
    rw [candidateState_scratch (hi.side.areas .scratch).1, hg'] at hg
    obtain ⟨rfl, rfl, rfl⟩ : s.rxLen = len ∧ sq' = sq ∧ tail' = tail := by simpa using hg
    exact (consume_countsDelivery (s := candidateState P s) hclass htail hfree hu).trans { CountsDelivery.refl u with }

theorem ScanPass.countsDelivery (hi : ScanInv P s) (h : ScanPass P s t) : CountsDelivery s t := by
  cases h with
  | seek _ _ hstep => exact stepSeek_countsDelivery hstep
  | complete _ _ => exact { CountsDelivery.refl s with }
  | progress hrx hstep => exact stepComplete_progress_countsDelivery hi hrx hstep

theorem ScanPasses.countsDelivery (hi : ScanInv P s) (h : ScanPasses P s t) : CountsDelivery s t := by
  induction h with
  | refl => exact .refl s
  | tail hpasses hpass ih => exact ih.trans (hpass.countsDelivery (ScanPasses.scanInv hpasses hi))

theorem ScanExit.countsDelivery (hi : ScanInv P s) (h : ScanExit P s t) : CountsDelivery s t := by
  cases h with
  | empty _ _ => exact .refl s
  | short _ _ => exact .refl s
  | stall hrx hstep => exact stepComplete_stall_eq hi hrx hstep ▸ candidateState_countsDelivery P s

theorem scan_countsDelivery (hi : Inv P s) (h : scan P s = .ok t) : CountsDelivery s t := by
  obtain ⟨u, hpasses, hexit⟩ := (scan_eq_ok hi.scanInv).1 h
  exact (hpasses.countsDelivery hi.scanInv).trans (hexit.countsDelivery (hpasses.scanInv hi.scanInv))

theorem receiveUnit_countsDelivery {bytes : List Byte} (hi : Inv P s) (h : receiveUnit P bytes s = .ok t) :
    CountsDelivery s t :=
  (rbPushBytes_countsDelivery bytes s).trans (scan_countsDelivery (rbPushBytes_inv bytes hi) h)

end Sys2Proof.Machine
end

section
/-! The rates and the counters over a whole operation (44_baud_and_counters.md R95 to R100): what an operation is made of,
as the mailboxes and `baud_current` see it, and the obligations read off that. -/

namespace Sys2Proof.Machine

variable {P : Params} {s t u : State} {i : Instr}

/-! ## Operations that fill no mailbox -/

/-- What an operation does that neither fills a mailbox nor applies a rate: it counts at most errors. -/
structure OffMailboxes (s t : State) : Prop where
  errors : ∃ es, CountsEvents s t es
  baudCurrent : t.baudCurrent = s.baudCurrent
  msgFromBrick : t.msgFromBrick = s.msgFromBrick
  msgFromBricklet : t.msgFromBricklet = s.msgFromBricklet
  slotTx_empty : s.slotTxLen = 0#8 → t.slotTxLen = 0#8
  slotRx_empty : s.slotRxLen = 0#8 → t.slotRxLen = 0#8

theorem OffMailboxes.refl (s : State) : OffMailboxes s s := ⟨(ScanKeeps.refl s).counts, rfl, rfl, rfl, id, id⟩

theorem OffMailboxes.trans (h₁ : OffMailboxes s t) (h₂ : OffMailboxes t u) : OffMailboxes s u where
  errors := countsEvents_trans h₁.errors h₂.errors
  baudCurrent := h₂.baudCurrent.trans h₁.baudCurrent
  msgFromBrick := h₂.msgFromBrick.trans h₁.msgFromBrick
  msgFromBricklet := h₂.msgFromBricklet.trans h₁.msgFromBricklet
  slotTx_empty := h₂.slotTx_empty ∘ h₁.slotTx_empty
  slotRx_empty := h₂.slotRx_empty ∘ h₁.slotRx_empty

theorem respond_offMailboxes (bytes : List Byte) (s : State) : OffMailboxes s (respond bytes s) :=
  { OffMailboxes.refl s with }

/-- The events of the host's commands, which no counter counts (R98, R109). -/
def hostEvents : List Event := [.busyError, .submitLengthError, .invalidCommand, .proposalIgnored]

theorem signal_offMailboxes {e : Event} (he : e ∈ hostEvents) (s : State) : OffMailboxes s (signal e s) := by
  refine { OffMailboxes.refl s with errors := ⟨[e], rfl, ?_⟩ }
  cases e with
  | busyError | submitLengthError | invalidCommand | proposalIgnored => exact ⟨rfl, rfl, rfl, rfl⟩
  | _ => exact absurd he (by decide)

/-- A host's command that is turned down: its event and its status (R111). -/
theorem turnedDown_offMailboxes {e : Event} (he : e ∈ hostEvents) (bytes : List Byte) (s : State) :
    OffMailboxes s (respond bytes (signal e s)) :=
  (signal_offMailboxes he s).trans (respond_offMailboxes bytes _)

theorem readRegWith_offMailboxes (r : Byte) (s : State) : OffMailboxes s (readRegWith P r s) := by
  unfold readRegWith
  split
  · exact respond_offMailboxes _ s
  · exact turnedDown_offMailboxes (by decide) _ s

theorem pendFixedRate_offMailboxes (s : State) : OffMailboxes s (pendFixedRate s) := by
  rcases pendFixedRate_cases s with ⟨-, e⟩ | ⟨-, e⟩ <;> rw [e]
  · exact { OffMailboxes.refl s with }
  · exact .refl s

theorem setBaud_offMailboxes {v : Word} (h : exec (.setBaud v) s = .next t) : OffMailboxes s t := by
  obtain rfl := Host.Outcome.next.inj h
  have hstored : OffMailboxes s { s with baudCfg := clampBaud v } := { OffMailboxes.refl s with }
  exact (hstored.trans (pendFixedRate_offMailboxes _)).trans (respond_offMailboxes _ _)

theorem setDynConfig_offMailboxes {en : Byte} {min : Word} (h : exec (.setDynConfig en min) s = .next t) :
    OffMailboxes s t := by
  obtain rfl := Host.Outcome.next.inj h
  have hstored : OffMailboxes s { s with dynEnable := en ≠ 0#8, dynMin := clampBaud min } :=
    { OffMailboxes.refl s with }
  exact (hstored.trans (pendFixedRate_offMailboxes _)).trans (respond_offMailboxes _ _)

theorem proposeBaud_offMailboxes {v : Word} (h : exec (.proposeBaud v) s = .next t) : OffMailboxes s t := by
  obtain rfl := Host.Outcome.next.inj h
  split
  · exact turnedDown_offMailboxes (by decide) _ s
  · exact { OffMailboxes.refl s with }

theorem drainWith_offMailboxes (h : drainWith P s = .ok t) : OffMailboxes s t := by
  rcases drainWith_eq_ok.1 h with ⟨-, rfl⟩ | ⟨-, -, rfl⟩
  · exact respond_offMailboxes _ s
  · exact { OffMailboxes.refl s with slotRx_empty := fun _ => rfl }

theorem txAdvance_offMailboxes (n : Byte) (s : State) : OffMailboxes s (txAdvance n s) := by
  rcases txAdvance_cases n s with ⟨-, e⟩ | ⟨-, -, e⟩ | ⟨-, -, -, e⟩ <;> rw [e] <;>
    exact { OffMailboxes.refl s with }

theorem txEmit_offMailboxes (h : txEmit P s = .ok t) : OffMailboxes s t := by
  rw [txEmit_eq_ok] at h
  split at h <;> obtain ⟨-, rfl⟩ := h <;> exact (txAdvance_offMailboxes _ s).trans (respond_offMailboxes _ _)

theorem startData_offMailboxes (h : startData P s = .ok t) : OffMailboxes s t := by
  obtain ⟨-, -, rfl⟩ := startData_eq_ok.1 h
  exact { OffMailboxes.refl s with }

theorem startAck_offMailboxes (h : startAck P s = .ok t) : OffMailboxes s t := by
  rw [startAck_eq] at h
  obtain rfl := Except.ok.inj h
  exact { OffMailboxes.refl s with }

theorem txByteWith_offMailboxes (h : txByteWith P s = .ok t) : OffMailboxes s t := by
  rcases txByteWith_cases h with ⟨-, he⟩ | ⟨-, -, u, hu, he⟩ | ⟨-, -, -, u, hu, he⟩ | ⟨-, -, -, rfl⟩
  · exact txEmit_offMailboxes he
  · exact (startData_offMailboxes hu).trans (txEmit_offMailboxes he)
  · exact (startAck_offMailboxes hu).trans (txEmit_offMailboxes he)
  · exact respond_offMailboxes _ s

/-! ## SUBMIT -/

/-- A SUBMIT that takes its payload fills the transmit mailbox and counts it, and touches nothing else of these
(R85). -/
structure Submitted (s t : State) : Prop where
  errors : ∃ es, CountsEvents s t es
  baudCurrent : t.baudCurrent = s.baudCurrent
  was_empty : s.slotTxLen = 0#8
  filled : t.slotTxLen ≠ 0#8
  msgFromBrick : t.msgFromBrick = satInc s.msgFromBrick
  slotRxLen : t.slotRxLen = s.slotRxLen
  msgFromBricklet : t.msgFromBricklet = s.msgFromBricklet

theorem submitWith_submitted {p : List Byte} (h : submitWith P p s = .ok t) : Submitted s t ∨ OffMailboxes s t := by
  rcases submitWith_cases h with ⟨-, rfl⟩ | ⟨-, -, -, rfl⟩ | ⟨hlo, hhi, hempty, -, rfl⟩
  · exact .inr (turnedDown_offMailboxes (e := .submitLengthError) (by decide) _ s)
  · exact .inr (turnedDown_offMailboxes (e := .busyError) (by decide) _ s)
  · exact .inl ⟨(ScanKeeps.refl s).counts, rfl, hempty, payloadLength_ne_zero ⟨hlo, hhi⟩, rfl, rfl, rfl⟩

/-! ## TICK after its scan -/

theorem frameOrTimer_offMailboxes (h : frameOrTimer P s = .ok t) : OffMailboxes s t := by
  unfold frameOrTimer at h
  split at h
  · obtain ⟨-, rfl⟩ := frameFromSlot_eq_ok.1 h
    exact { OffMailboxes.refl s with slotTx_empty := fun _ => rfl }
  · obtain rfl := Except.ok.inj h
    rw [retxTimer_eq]
    exact { OffMailboxes.refl s with }

theorem frameOrTimer_ratesKept (h : frameOrTimer P s = .ok t) : RatesKept s t := by
  unfold frameOrTimer at h
  split at h
  · obtain ⟨-, rfl⟩ := frameFromSlot_eq_ok.1 h
    exact { RatesKept.refl s with }
  · obtain rfl := Except.ok.inj h
    rw [retxTimer_eq]
    exact { RatesKept.refl s with }

/-- A TICK is a scan, then framing or the timer, then BAUD_APPLY (R102). -/
theorem tickWith_parts {now : Word} (h : tickWith P now s = .ok t) :
    ∃ u v, Receives s u ∧ (Inv P s → CountsDelivery s u) ∧ frameOrTimer P u = .ok v ∧ t = baudApply v := by
  obtain ⟨u, hu, h⟩ := run_bind_eq_ok.1 h
  obtain ⟨v, hv, h⟩ := run_bind_eq_ok.1 h
  have hlatched : Receives s { s with nowReg := now } := { Receives.refl s with }
  have hmail : CountsDelivery s { s with nowReg := now } := { CountsDelivery.refl s with }
  exact ⟨u, v, hlatched.trans (scan_receives hu),
    fun hi => hmail.trans (scan_countsDelivery (withNowReg_inv now hi) hu), hv, (Except.ok.inj h).symm⟩

/-! ## Any operation -/

/-- What every operation but RESET is, as the mailboxes and the rates see it: a TICK, bytes that arrive, a SUBMIT that is
taken, or an operation off the mailboxes. -/
theorem exec_parts (hreset : i ≠ .reset) (h : exec i s = .next t) :
    (∃ now, i = .tick now ∧ tickWith Config.params now s = .ok t)
    ∨ (Receives s t ∧ (Inv Config.params s → CountsDelivery s t))
    ∨ Submitted s t
    ∨ OffMailboxes s t := by
  have hunit : ∀ bytes, receiveUnit Config.params bytes s = .ok t →
      Receives s t ∧ (Inv Config.params s → CountsDelivery s t) :=
    fun bytes hu => ⟨receiveUnit_receives hu, fun hi => receiveUnit_countsDelivery hi hu⟩
  cases i with
  | reset => exact absurd rfl hreset
  | tick now => exact .inl ⟨now, rfl, runOutcome_eq_next.1 h⟩
  | rxByte b =>
    obtain rfl := Host.Outcome.next.inj h
    exact .inr (.inl ⟨rbPush_receives b s, fun _ => rbPush_countsDelivery b s⟩)
  | wIdle | wAck own ackn chk | wData own ackn p chk | wBadlen len =>
    exact .inr (.inl (hunit _ (runOutcome_eq_next.1 h)))
  | submit p => exact .inr (.inr (submitWith_submitted (runOutcome_eq_next.1 h)))
  | txByte => exact .inr (.inr (.inr (txByteWith_offMailboxes (runOutcome_eq_next.1 h))))
  | drain => exact .inr (.inr (.inr (drainWith_offMailboxes (runOutcome_eq_next.1 h))))
  | readReg r => exact .inr (.inr (.inr (Host.Outcome.next.inj h ▸ readRegWith_offMailboxes r s)))
  | setBaud v => exact .inr (.inr (.inr (setBaud_offMailboxes h)))
  | setDynConfig en min => exact .inr (.inr (.inr (setDynConfig_offMailboxes h)))
  | proposeBaud v => exact .inr (.inr (.inr (proposeBaud_offMailboxes h)))
  | invalid op =>
    exact .inr (.inr (.inr (Host.Outcome.next.inj h ▸ turnedDown_offMailboxes (by decide) _ s)))

/-! ## The rates -/

/-- Settles O30: scan and framing leave the rates and the frame on the line, so BAUD_APPLY finds both as the TICK did. -/
theorem tickAppliesBaud : Obligations.TickAppliesBaud := by
  intro now s t h
  obtain ⟨u, v, hscan, -, hv, rfl⟩ := tickWith_parts (runOutcome_eq_next.1 h)
  obtain ⟨hsrc, hcfg, hcurrent, hnew, hchange, hdyn, hmin⟩ := hscan.toRatesKept.trans (frameOrTimer_ratesKept hv)
  rw [← hchange, ← hsrc]
  rcases baudApply_cases v with ⟨hpending, hidle, e⟩ | ⟨hnot, e⟩ <;> rw [e]
  · rw [if_pos ⟨hpending, hidle⟩]
    exact ⟨rfl, hnew, hcfg, hmin, hdyn, hnew, rfl⟩
  · rw [if_neg hnot]
    exact ⟨rfl, hnew, hcfg, hmin, hdyn, hcurrent, rfl⟩

/-- Settles O27: of all operations but RESET only a TICK applies a rate, and it does so on a free line (R95). -/
theorem baudCurrentHeldMidFrame : Obligations.BaudCurrentHeldMidFrame := by
  intro i s t hbusy hreset h
  rcases exec_parts hreset h with ⟨now, rfl, -⟩ | ⟨hreceives, -⟩ | hsubmitted | hoff
  · obtain ⟨-, -, -, -, -, happly⟩ := tickAppliesBaud now s t h
    rw [if_neg fun hboundary => hbusy hboundary.2] at happly
    exact happly.1
  · exact hreceives.baudCurrent
  · exact hsubmitted.baudCurrent
  · exact hoff.baudCurrent

/-! ## The error counters -/

/-- The error counters account for the events, and no message counter has gone down (R98, R100). -/
structure Accounts (s t : State) : Prop where
  errors : ∃ es, CountsEvents s t es
  msgFromBrick_le : s.msgFromBrick ≤ t.msgFromBrick
  msgFromBricklet_le : s.msgFromBricklet ≤ t.msgFromBricklet

theorem Accounts.trans (h₁ : Accounts s t) (h₂ : Accounts t u) : Accounts s u :=
  ⟨countsEvents_trans h₁.errors h₂.errors, BitVec.le_trans h₁.msgFromBrick_le h₂.msgFromBrick_le,
    BitVec.le_trans h₁.msgFromBricklet_le h₂.msgFromBricklet_le⟩

theorem Receives.accounts (h : Receives s t) : Accounts s t :=
  ⟨h.errors, h.msgFromBrick ▸ BitVec.le_refl _, h.msgFromBricklet_le⟩

theorem Submitted.accounts (h : Submitted s t) : Accounts s t :=
  ⟨h.errors, h.msgFromBrick ▸ le_satInc _, h.msgFromBricklet ▸ BitVec.le_refl _⟩

theorem OffMailboxes.accounts (h : OffMailboxes s t) : Accounts s t :=
  ⟨h.errors, h.msgFromBrick ▸ BitVec.le_refl _, h.msgFromBricklet ▸ BitVec.le_refl _⟩

theorem baudApply_accounts (s : State) : Accounts s (baudApply s) := by
  rw [baudApply_eq]
  exact { (OffMailboxes.refl s).accounts with }

theorem exec_accounts (hreset : i ≠ .reset) (h : exec i s = .next t) : Accounts s t := by
  rcases exec_parts hreset h with ⟨now, -, htick⟩ | ⟨hreceives, -⟩ | hsubmitted | hoff
  · obtain ⟨u, v, hscan, -, hv, rfl⟩ := tickWith_parts htick
    exact (hscan.accounts.trans (frameOrTimer_offMailboxes hv).accounts).trans (baudApply_accounts v)
  · exact hreceives.accounts
  · exact hsubmitted.accounts
  · exact hoff.accounts

/-- Settles O57: `sat_inc` in numbers, and every part of an operation accounts for its own events. -/
theorem errorCountersCountTheirEvents : Obligations.ErrorCountersCountTheirEvents :=
  ⟨satInc_toNat, fun _ _ _ hreset h => (exec_accounts hreset h).errors⟩

theorem le_iterate_satInc (n : Nat) (c : Word) : c ≤ satInc^[n] c := by
  induction n with
  | zero => exact BitVec.le_refl c
  | succ n ih =>
    rw [Function.iterate_succ_apply']
    exact BitVec.le_trans ih (le_satInc _)

/-- Settles O56: an error counter only ever counts through `sat_inc`. -/
theorem countersNeverDecrease : Obligations.CountersNeverDecrease := by
  intro i s t hreset h
  obtain ⟨⟨es, -, hack, hframe, hmsg, hover⟩, hbrick, hbricklet⟩ := exec_accounts hreset h
  rw [hack, hframe, hmsg, hover]
  exact ⟨le_iterate_satInc _ _, le_iterate_satInc _ _, le_iterate_satInc _ _, le_iterate_satInc _ _, hbrick, hbricklet⟩

/-! ## The message counters -/

/-- Each message counter counts the fillings of its own mailbox (R99). -/
structure MailboxesCounted (s t : State) : Prop where
  brick : MailboxCounted s.slotTxLen t.slotTxLen s.msgFromBrick t.msgFromBrick
  bricklet : MailboxCounted s.slotRxLen t.slotRxLen s.msgFromBricklet t.msgFromBricklet

theorem OffMailboxes.mailboxesCounted (h : OffMailboxes s t) : MailboxesCounted s t :=
  ⟨.inl ⟨h.slotTx_empty, h.msgFromBrick⟩, .inl ⟨h.slotRx_empty, h.msgFromBricklet⟩⟩

theorem Submitted.mailboxesCounted (h : Submitted s t) : MailboxesCounted s t :=
  ⟨.inr ⟨h.was_empty, h.filled, h.msgFromBrick⟩, .inl ⟨fun hempty => h.slotRxLen.trans hempty, h.msgFromBricklet⟩⟩

theorem Receives.mailboxesCounted (h : Receives s t) (hmail : CountsDelivery s t) : MailboxesCounted s t :=
  ⟨.inl ⟨fun hempty => h.slotTxLen.trans hempty, h.msgFromBrick⟩, hmail.counted⟩

/-- After its scan a TICK leaves the receive mailbox, and it may empty the transmit mailbox but not fill it (R86). -/
theorem tickWith_mailboxesCounted {now : Word} (hi : Inv P s) (h : tickWith P now s = .ok t) :
    MailboxesCounted s t := by
  obtain ⟨u, v, hscan, hmail, hv, rfl⟩ := tickWith_parts h
  have hframed := frameOrTimer_offMailboxes hv
  have hslotRx : v.slotRxLen = u.slotRxLen := (frameOrTimer_keeps hv).slotRxLen
  have hcounted := (hmail hi).counted
  rw [← hslotRx, ← hframed.msgFromBricklet] at hcounted
  rw [baudApply_eq]
  exact ⟨.inl ⟨fun hempty => hframed.slotTx_empty (hscan.slotTxLen.trans hempty),
    hframed.msgFromBrick.trans hscan.msgFromBrick⟩, hcounted⟩

/-- Settles O58: SUBMIT fills the one mailbox and a delivery the other, each where its counter counts; framing and DRAIN
only empty them. -/
theorem messageCountersCountMailboxes : Obligations.MessageCountersCountMailboxes := by
  intro i s t hi hreset h
  suffices hcounted : MailboxesCounted s t from ⟨hcounted.brick.eq, hcounted.bricklet.eq⟩
  rcases exec_parts hreset h with ⟨now, -, htick⟩ | ⟨hreceives, hmail⟩ | hsubmitted | hoff
  · exact tickWith_mailboxesCounted hi htick
  · exact hreceives.mailboxesCounted (hmail hi)
  · exact hsubmitted.mailboxesCounted
  · exact hoff.mailboxesCounted

end Sys2Proof.Machine
end

section
/-! The command stream, DRAIN, and that every operation answers (45_tick_and_host.md R104, R106, R107;
60_exceptions.md R108). -/

namespace Sys2Proof.Machine

variable {P : Params} {s : State} {i : Instr}

/-! ## The command stream -/

theorem step_of_command {rest : List Byte} (h : decodeCommand s.cmdIn = .ok (i, rest)) :
    step s = exec i { s with cmdIn := rest } := by
  simp only [step, fetch, h]

theorem step_of_empty (h : s.cmdIn = []) : step s = .next s := by
  simp only [step, fetch, decodeCommand_empty.2 h]

theorem step_of_truncated {m : String} (h : decodeCommand s.cmdIn = .error (.truncated m)) :
    step s = .refused (.truncatedCommand m) := by
  simp only [step, fetch, h]

/-- Settles O6: an equation of `step` for each answer of the decoder, which has no byte to read only in an empty stream. -/
theorem stepRunsDecoded : Obligations.StepRunsDecoded := by
  refine ⟨fun _ _ _ => step_of_command, fun _ => step_of_empty, fun _ _ => step_of_truncated, fun s hne => ?_⟩
  rcases fetch_cases s with ⟨hempty, -⟩ | ⟨i, rest, hcommand, -⟩ | ⟨m, htruncated, -⟩
  · exact absurd hempty hne
  · exact .inl ⟨i, rest, hcommand⟩
  · exact .inr ⟨m, htruncated⟩

/-! ## DRAIN -/

theorem drainWith_empty (h : s.slotRxLen = 0#8) : drainWith P s = .ok (respond [0#8] s) :=
  drainWith_eq_ok.2 (.inl ⟨h, rfl⟩)

/-- A waiting payload fits its mailbox, so DRAIN hands it over (R104, R36 item 2). -/
theorem drainWith_full (hi : Inv P s) (h : s.slotRxLen ≠ 0#8) :
    drainWith P s = .ok (respond (s.slotRxLen :: memReadBytes s.slotRx 0 s.slotRxLen.toNat) (emptySlotRx P s)) := by
  obtain h0 | ⟨-, hmax⟩ := hi.slotRxLen_range
  · exact absurd h0 h
  · exact drainWith_eq_ok.2 (.inr ⟨h, hmax, rfl⟩)

/-- Settles O20: by whether a payload waits; emptying the mailbox writes only where the payload stood. -/
theorem drainRule : Obligations.DrainRule := by
  intro s hi
  refine ⟨fun h => exec_drain (drainWith_empty h), fun h => ⟨_, exec_drain (drainWith_full hi h), rfl, fun j hj => ?_⟩⟩
  have hstale : (staleBytes Config.params s.slotRxLen.toNat s).length = s.slotRxLen.toNat := by simp [staleBytes]
  exact memRead_memWriteBytes_outside (hi.mem_wf .slotRx) (.inr (by omega))

/-! ## Every operation answers -/

theorem drainWith_answers (hi : Inv P s) : ∃ t, drainWith P s = .ok t := by
  by_cases h : s.slotRxLen = 0#8
  · exact ⟨_, drainWith_empty h⟩
  · exact ⟨_, drainWith_full hi h⟩

theorem tickWith_answers (now : Word) (hi : Inv P s) : ∃ t, tickWith P now s = .ok t := by
  obtain ⟨-, u, -, -, hscan⟩ := scan_answers (withNowReg_inv now hi).scanInv
  obtain ⟨v, hrest⟩ := frameOrTimer_answers (tickScan_inv hi hscan)
  exact ⟨_, tickWith_of_parts hscan hrest⟩

theorem receiveUnit_answers (bytes : List Byte) (hi : Inv P s) : ∃ t, receiveUnit P bytes s = .ok t := by
  obtain ⟨-, t, -, -, hscan⟩ := scan_answers (rbPushBytes_inv bytes hi).scanInv
  exact ⟨t, hscan⟩

/-- TX_BYTE answers inside either frame, at the start of either, and with nothing to send (R88). -/
theorem txByteWith_answers (hi : Inv P s) : ∃ t, txByteWith P s = .ok t := by
  cases hsrc : s.txSrc with
  | data => exact ⟨_, txByteWith_data hi hsrc⟩
  | ack => exact ⟨_, txByteWith_ack hi hsrc⟩
  | idle =>
    cases hdue : s.txDue with
    | true => exact ⟨_, txByteWith_starts_data (hi.frameDue hsrc hdue)⟩
    | false =>
      cases howed : s.ackOwed with
      | true => exact ⟨_, txByteWith_starts_ack hsrc hdue howed⟩
      | false => exact ⟨respond [0#8] s, by simp [txByteWith, hsrc, hdue, howed]⟩

theorem runOutcome_answers {x : Run State} (h : ∃ t, x = .ok t) : ∃ t, runOutcome x = .next t :=
  h.imp fun _ => runOutcome_eq_next.2

/-- No instruction stops in a state of the invariant (R107, R108). -/
theorem exec_answers (i : Instr) (hi : Inv Config.params s) : ∃ t, exec i s = .next t := by
  cases i with
  | tick now => exact runOutcome_answers (tickWith_answers now hi)
  | txByte => exact runOutcome_answers (txByteWith_answers hi)
  | submit p => exact runOutcome_answers (submitWith_answers Config.params p s)
  | drain => exact runOutcome_answers (drainWith_answers hi)
  | wIdle | wAck own ackn chk | wData own ackn p chk | wBadlen len =>
    exact runOutcome_answers (receiveUnit_answers _ hi)
  | reset | rxByte b | readReg r | setBaud v | setDynConfig en min | proposeBaud v | invalid op => exact ⟨_, rfl⟩

/-- Settles O55: every instruction answers, and a step that runs none either waits or has a truncated stream. -/
theorem everyOperationCompletes : Obligations.EveryOperationCompletes := by
  refine ⟨fun i _ hi => exec_answers i hi, fun s hi => ?_⟩
  rcases fetch_cases s with ⟨hempty, -⟩ | ⟨i, rest, hcommand, -⟩ | ⟨m, htruncated, -⟩
  · exact .inl ⟨s, step_of_empty hempty⟩
  · rw [step_of_command hcommand]
    exact .inl (exec_answers i (withCmdIn_inv rest hi))
  · exact .inr ⟨m, htruncated, step_of_truncated htruncated⟩

end Sys2Proof.Machine
end

section
/-! A TICK's result is a fixed point of TICK at the same clock (45_tick_and_host.md R103): of its scan, because a stalled
candidate is judged as before and stands in `scratch` already, and of the rest. -/

namespace Sys2Proof.Machine

variable {P : Params} {s t : State}

/-! ## A second scan -/

/-- A stalled candidate has been copied into `scratch`: copying it again changes nothing there (R75). -/
def ScratchHoldsCandidate (P : Params) (s : State) : Prop :=
  s.rxState = .frameComplete → memWriteBytes s.scratch 0 (ringBytes P s.rxLen.toNat s) = s.scratch

theorem ScratchHoldsCandidate.candidateState_eq (h : ScratchHoldsCandidate P s) (hrx : s.rxState = .frameComplete) :
    candidateState P s = s := by
  rw [candidateState, h hrx]

theorem ScratchHoldsCandidate.of_sameReceiver (h : ScratchHoldsCandidate P s) (hsame : SameReceiver s t)
    (hscratch : t.scratch = s.scratch) : ScratchHoldsCandidate P t := by
  rw [ScratchHoldsCandidate, hsame.rxState, hsame.rxLen, hsame.ringBytes_eq, hscratch]
  exact h

theorem scan_scratchHoldsCandidate (hi : ScanInv P s) (h : scan P s = .ok t) : ScratchHoldsCandidate P t := by
  intro hrx
  obtain ⟨u, hpasses, hexit⟩ := (scan_eq_ok hi).1 h
  have hu := hpasses.scanInv hi
  cases hexit with
  | empty hseeking _ => cases hseeking.symm.trans hrx
  | short haccumulating _ => cases haccumulating.symm.trans hrx
  | stall hcomplete hstall =>
    rw [stepComplete_stall_eq hu hcomplete hstall]
    exact memWriteBytes_idem (hu.side.areas .scratch).1 0 (ringBytes P u.rxLen.toNat u)

/-- The frame of R36 item 11 stalls (R75). -/
theorem R36.stepComplete_stalls (h : R36 P s) (hrx : s.rxState = .frameComplete) :
    stepComplete P s = .ok (.stall (candidateState P s)) := by
  obtain ⟨sq, tail, hbytes, hvalid, hne, hnew⟩ := h.stalled_valid hrx
  obtain ⟨hused, -, hclass⟩ := h.complete_candidate hrx
  have hlong : overhead < s.rxLen.toNat := (overhead_lt_iff (kind := .data) hclass).2 rfl
  have hstall : mustStall (seqOwn sq) (candidateState P s) = true :=
    mustStall_iff.2 ⟨hlong, hne, hnew, h.stalled_mailbox hrx⟩
  rw [stepComplete_eq (h.mem_wf .scratch) hused (le_maxFrameLen_of_frame (.inr hclass)) hbytes,
    if_neg (not_not.2 hvalid), if_pos hstall]

/-- A scan from where a scan ends changes nothing (R73, R103). -/
theorem scan_again (h : R36 P s) (hquiet : ScanQuiescent s) (hscratch : ScratchHoldsCandidate P s) :
    scan P s = .ok s := by
  refine scan_of_passes h.toInv.scanInv .refl ?_
  rcases hquiet with ⟨hrx, hused⟩ | ⟨hrx, hshort⟩ | ⟨hrx, -⟩
  · exact .empty hrx hused
  · exact .short hrx hshort
  · have hstall := h.stepComplete_stalls hrx
    rw [hscratch.candidateState_eq hrx] at hstall
    exact .stall hrx hstall

/-! ## The rest of a second TICK -/

/-- Framing, the retransmission timer and BAUD_APPLY find nothing to do (R86, R87, R95). -/
structure RestDone (P : Params) (s : State) : Prop where
  framed : s.sendLen = 0#8 → s.slotTxLen = 0#8
  due : s.sendLen ≠ 0#8 → s.txSent = true → s.txSrc ≠ .data → P.txTimeoutMs ≤ (elapsed s).toNat → s.txDue = true
  applied : s.txSrc = .idle → s.baudChange = false

theorem RestDone.frameOrTimer_self (h : RestDone P s) : frameOrTimer P s = .ok s := by
  rw [frameOrTimer, if_neg fun ⟨hsend, hslot⟩ => hslot (h.framed hsend)]
  rcases retxTimer_cases P s with ⟨hsend, hsent, hdue, hsrc, htime, -⟩ | ⟨-, e⟩
  · cases hdue.symm.trans (h.due hsend hsent hsrc htime)
  · rw [e]

theorem RestDone.baudApply_self (h : RestDone P s) : baudApply s = s :=
  if_neg fun ⟨hchange, hidle⟩ => by cases hchange.symm.trans (h.applied hidle)

/-- The rest of a TICK leaves no message unframed, no frame overdue and no rate pending on a free line. -/
theorem restDone_of_frameOrTimer (h : frameOrTimer P s = .ok t) : RestDone P (baudApply t) := by
  rw [baudApply_eq]
  unfold frameOrTimer at h
  split at h
  · obtain ⟨-, rfl⟩ := frameFromSlot_eq_ok.1 h
    exact ⟨fun _ => rfl, fun _ _ _ _ => rfl, fun hidle => if_pos hidle⟩
  · next hnone =>
    have hframed : s.sendLen = 0#8 → s.slotTxLen = 0#8 := fun hsend => not_not.1 fun hslot => hnone ⟨hsend, hslot⟩
    obtain rfl := Except.ok.inj h
    rcases retxTimer_cases P s with ⟨-, -, -, -, -, e⟩ | ⟨hnot, e⟩ <;> rw [e]
    · exact ⟨hframed, fun _ _ _ _ => rfl, fun hidle => if_pos hidle⟩
    · refine ⟨hframed, fun hsend hsent hsrc htime => ?_, fun hidle => if_pos hidle⟩
      exact Bool.of_not_eq_false fun hdue => hnot ⟨hsend, hsent, hdue, hsrc, htime⟩

theorem frameOrTimer_scratch (h : frameOrTimer P s = .ok t) : t.scratch = s.scratch := by
  unfold frameOrTimer at h
  split at h
  · obtain ⟨-, rfl⟩ := frameFromSlot_eq_ok.1 h
    rfl
  · rw [← Except.ok.inj h, retxTimer_eq]

/-- Settles O31: the first TICK leaves nothing to scan, to frame, to time or to apply, and the clock as it latched it. -/
theorem secondTickChangesNothing : Obligations.SecondTickChangesNothing := by
  intro now s t hi h
  obtain ⟨hquiet, -, hnow, -, -⟩ := tickScansToTheEnd now s t hi h
  have hr36 := tickWith_r36 hi (runOutcome_eq_next.1 h)
  obtain ⟨u, hu, h⟩ := run_bind_eq_ok.1 (runOutcome_eq_next.1 h)
  obtain ⟨v, hv, h⟩ := run_bind_eq_ok.1 h
  obtain rfl := Except.ok.inj h
  have hreceiver := ((frameOrTimer_offReceive (P := Config.params) hv).trans (baudApply_offReceive v)).receiver
  have hscratch : (baudApply v).scratch = u.scratch := by rw [baudApply_eq, ← frameOrTimer_scratch hv]
  have hcopied := (scan_scratchHoldsCandidate (withNowReg_inv now hi).scanInv hu).of_sameReceiver hreceiver hscratch
  have hdone := restDone_of_frameOrTimer hv
  have hlatched : { baudApply v with nowReg := now } = baudApply v := by rw [← hnow]
  have hscan : scan Config.params { baudApply v with nowReg := now } = .ok (baudApply v) :=
    hlatched.symm ▸ scan_again hr36 hquiet hcopied
  have hsecond := exec_tick (tickWith_of_parts hscan hdone.frameOrTimer_self)
  rwa [hdone.baudApply_self] at hsecond

end Sys2Proof.Machine
end
